-- ==== Sys2Proof/Word.lean ====
section
/-! DEFINITION. The word types of the machine (00_scope.md R7, R9; 30_encoding.md R71). -/

namespace Sys2Proof

/-- An 8-bit value: a V register, a timer, a byte of memory, the field NN (R7, R71). -/
abbrev Byte := BitVec 8

/-- A 16-bit value: PC, I, a stack slot, an instruction word (R7, R70). -/
abbrev Word := BitVec 16

/-- The 12-bit address field NNN (R71). -/
abbrev Addr := BitVec 12

/-- The index of a general register, 0x0..0xF (10_state.md R20). -/
abbrev RegIdx := Fin 16

/-- VF, the register that doubles as the flag (10_state.md R21). -/
abbrev VF : RegIdx := 15

end Sys2Proof
end

