-- ==== Sys2Proof/Machine/Flags.lean ====
section
/-! DEFINITION. Every flag computation of the instruction set: what the five flag-writing ALU instructions and DRW put
into VF (10_state.md R21, R22; 42_alu.md R137 to R141, R146; 43_display.md R172). -/

namespace Sys2Proof.Machine

/-- A flag as VF holds it: 1 or 0. -/
def flagByte (b : Bool) : Byte := if b then 0x01#8 else 0x00#8

/-- 8XY4: the carry, "VF=1 if sum>255 else 0" (R137). -/
def carryFlag (a b : Byte) : Bool := decide (a.toNat + b.toNat > 255)

/-- 8XY5 and 8XY7: minuend strictly greater than subtrahend (R138, R140). -/
def greaterFlag (a b : Byte) : Bool := decide (a.toNat > b.toNat)

/-- 8XY6: the bit shifted out on the right (R139). -/
def lowBitFlag (a : Byte) : Bool := a.getLsbD 0

/-- 8XYE: the bit shifted out on the left (R141). -/
def highBitFlag (a : Byte) : Bool := a.getLsbD 7

end Sys2Proof.Machine
end

