-- ==== Sys2Proof/Config.lean ====
section
/-! DEFINITION. What the spec takes as a parameter of the machine (00_scope.md R7, R8) and the free values it leaves open. -/

namespace Sys2Proof

/-- SYS_POLICY (30_encoding.md R81): what a group-0 word other than 00E0 and 00EE does. -/
inductive Config.SysPolicy
  | fault
  | nop
deriving DecidableEq, Repr

/-- SPRITE_EDGE (43_display.md R173, R174): what happens to a sprite pixel past the edge. -/
inductive Config.SpriteEdge
  | clip
  | wrap
deriving DecidableEq, Repr

/-- The parameters of 00_scope.md R8 that choose between two readings. -/
structure Config.Params where
  sysPolicy        : Config.SysPolicy
  strictSkipNibble : Bool
  spriteEdge       : Config.SpriteEdge
deriving DecidableEq, Repr

/-- The values R8 gives for this hardware (conflicts C1 and C2; 92_eei_decisions.md D4, D5, D11; DEDUCED, log entry 7). -/
def Config.params : Config.Params :=
  { sysPolicy := .fault, strictSkipNibble := false, spriteEdge := .clip }

/-- The number of bytes of memory (R7, 20_memory.md R50). -/
abbrev Config.memSize : Nat := 4096

/-- The number of bytes of the font, which starts at address 0 (R7, 20_memory.md R57). -/
abbrev Config.fontSize : Nat := 80

/-- The conventional start address of Reset (70_reset_and_hazards.md R272; DESIGN CHOICE, log entry 6). -/
def Config.conventionalStart : Word := 0x200

/-- FONT: the glyph bytes, an OPEN parameter (92_eei_decisions.md D12; DESIGN CHOICE, log entry 4).
Only the indices below `Config.fontSize` are used. A free value: nothing in Lean knows a byte of it. -/
opaque Config.font : Nat → Byte

/-- The random byte of draw number `n` (42_alu.md R143, 92_eei_decisions.md D15; DESIGN CHOICE, log entry 5).
A free value: any byte is possible, and no law links two draws. -/
opaque Config.rand : Nat → Byte

end Sys2Proof
end

