-- ==== Sys2Proof/Syntax.lean ====
section
/-! DEFINITION. The instruction set: one constructor for each of the 34 rows of the opcode map (30_encoding.md R76). -/

namespace Sys2Proof

/-- An instruction. `x` and `y` are register indices, `nn` an 8-bit immediate, `nnn` a 12-bit address and `n` the sprite
height, a count (R72). Bits the decoder ignores (R73) are no operands: SHR and SHL have no Y, SE_REG and SNE_REG no N. -/
inductive Instr
  | cls                                    -- 00E0 CLS
  | ret                                    -- 00EE RET
  | jp (nnn : Addr)                        -- 1NNN JP addr
  | call (nnn : Addr)                      -- 2NNN CALL addr
  | seImm (x : RegIdx) (nn : Byte)         -- 3XNN SE Vx, byte
  | sneImm (x : RegIdx) (nn : Byte)        -- 4XNN SNE Vx, byte
  | seReg (x y : RegIdx)                   -- 5XY0 SE Vx, Vy
  | ldImm (x : RegIdx) (nn : Byte)         -- 6XNN LD Vx, byte
  | addImm (x : RegIdx) (nn : Byte)        -- 7XNN ADD Vx, byte
  | ldReg (x y : RegIdx)                   -- 8XY0 LD Vx, Vy
  | or (x y : RegIdx)                      -- 8XY1 OR Vx, Vy
  | and (x y : RegIdx)                     -- 8XY2 AND Vx, Vy
  | xor (x y : RegIdx)                     -- 8XY3 XOR Vx, Vy
  | addReg (x y : RegIdx)                  -- 8XY4 ADD Vx, Vy
  | sub (x y : RegIdx)                     -- 8XY5 SUB Vx, Vy
  | shr (x : RegIdx)                       -- 8XY6 SHR Vx
  | subn (x y : RegIdx)                    -- 8XY7 SUBN Vx, Vy
  | shl (x : RegIdx)                       -- 8XYE SHL Vx
  | sneReg (x y : RegIdx)                  -- 9XY0 SNE Vx, Vy
  | ldI (nnn : Addr)                       -- ANNN LD I, addr
  | jpV0 (nnn : Addr)                      -- BNNN JP V0, addr
  | rnd (x : RegIdx) (nn : Byte)           -- CXNN RND Vx, byte
  | drw (x y : RegIdx) (n : Nat)           -- DXYN DRW Vx, Vy, nibble
  | skp (x : RegIdx)                       -- EX9E SKP Vx
  | sknp (x : RegIdx)                      -- EXA1 SKNP Vx
  | ldVxDt (x : RegIdx)                    -- FX07 LD Vx, DT
  | ldVxK (x : RegIdx)                     -- FX0A LD Vx, K
  | ldDtVx (x : RegIdx)                    -- FX15 LD DT, Vx
  | ldStVx (x : RegIdx)                    -- FX18 LD ST, Vx
  | addIVx (x : RegIdx)                    -- FX1E ADD I, Vx
  | ldFVx (x : RegIdx)                     -- FX29 LD F, Vx
  | ldBVx (x : RegIdx)                     -- FX33 LD B, Vx
  | ldMemVx (x : RegIdx)                   -- FX55 LD [I], Vx
  | ldVxMem (x : RegIdx)                   -- FX65 LD Vx, [I]
deriving DecidableEq, Repr

end Sys2Proof
end

