-- ==== Sys2Proof/Decode.lean ====
section
/-! DEFINITION. Decoding and encoding of instruction words (30_encoding.md R70 to R83), and the opcode map as a table. -/

namespace Sys2Proof

/-! ### The fields of an instruction word (R71) -/

/-- G, the opcode group: bits 15:12. -/
def fieldG (w : Word) : BitVec 4 := w.extractLsb' 12 4
/-- X, a register index: bits 11:8. -/
def fieldX (w : Word) : RegIdx := (w.extractLsb' 8 4).toFin
/-- Y, a register index: bits 7:4. -/
def fieldY (w : Word) : RegIdx := (w.extractLsb' 4 4).toFin
/-- N, the low nibble: bits 3:0. -/
def fieldN (w : Word) : BitVec 4 := w.extractLsb' 0 4
/-- NN, the low byte: bits 7:0. -/
def fieldNN (w : Word) : Byte := w.extractLsb' 0 8
/-- NNN, the low 12 bits. -/
def fieldNNN (w : Word) : Addr := w.extractLsb' 0 12

/-! ### Decode -/

/-- Group 0: the whole word selects; the two literal words and nothing else (R74, R76). -/
def decodeGroup0 (w : Word) : Option Instr :=
  if w = 0x00E0#16 then some .cls else if w = 0x00EE#16 then some .ret else none

/-- Group 8: N selects (R77). -/
def decodeGroup8 (w : Word) : Option Instr :=
  match (fieldN w).toNat with
  | 0x0 => some (.ldReg (fieldX w) (fieldY w))
  | 0x1 => some (.or (fieldX w) (fieldY w))
  | 0x2 => some (.and (fieldX w) (fieldY w))
  | 0x3 => some (.xor (fieldX w) (fieldY w))
  | 0x4 => some (.addReg (fieldX w) (fieldY w))
  | 0x5 => some (.sub (fieldX w) (fieldY w))
  | 0x6 => some (.shr (fieldX w))
  | 0x7 => some (.subn (fieldX w) (fieldY w))
  | 0xE => some (.shl (fieldX w))
  | _   => none

/-- Group E: NN selects (R78). -/
def decodeGroupE (w : Word) : Option Instr :=
  if fieldNN w = 0x9E#8 then some (.skp (fieldX w))
  else if fieldNN w = 0xA1#8 then some (.sknp (fieldX w))
  else none

/-- Group F: NN selects (R79). -/
def decodeGroupF (w : Word) : Option Instr :=
  if fieldNN w = 0x07#8 then some (.ldVxDt (fieldX w))
  else if fieldNN w = 0x0A#8 then some (.ldVxK (fieldX w))
  else if fieldNN w = 0x15#8 then some (.ldDtVx (fieldX w))
  else if fieldNN w = 0x18#8 then some (.ldStVx (fieldX w))
  else if fieldNN w = 0x1E#8 then some (.addIVx (fieldX w))
  else if fieldNN w = 0x29#8 then some (.ldFVx (fieldX w))
  else if fieldNN w = 0x33#8 then some (.ldBVx (fieldX w))
  else if fieldNN w = 0x55#8 then some (.ldMemVx (fieldX w))
  else if fieldNN w = 0x65#8 then some (.ldVxMem (fieldX w))
  else none

/-- Groups 5 and 9 have no selector, unless STRICT_SKIP_NIBBLE asks for N = 0 (R75). -/
def skipNibbleOk (strict : Bool) (w : Word) : Bool := !strict || fieldN w == 0#4

/-- The instruction a word stands for under a value of STRICT_SKIP_NIBBLE, none for an unrecognized word
(R74 to R80, R94). Total on all 65536 words (R83). -/
def decodeWith (strict : Bool) (w : Word) : Option Instr :=
  match (fieldG w).toNat with
  | 0x0 => decodeGroup0 w
  | 0x1 => some (.jp (fieldNNN w))
  | 0x2 => some (.call (fieldNNN w))
  | 0x3 => some (.seImm (fieldX w) (fieldNN w))
  | 0x4 => some (.sneImm (fieldX w) (fieldNN w))
  | 0x5 => if skipNibbleOk strict w then some (.seReg (fieldX w) (fieldY w)) else none
  | 0x6 => some (.ldImm (fieldX w) (fieldNN w))
  | 0x7 => some (.addImm (fieldX w) (fieldNN w))
  | 0x8 => decodeGroup8 w
  | 0x9 => if skipNibbleOk strict w then some (.sneReg (fieldX w) (fieldY w)) else none
  | 0xA => some (.ldI (fieldNNN w))
  | 0xB => some (.jpV0 (fieldNNN w))
  | 0xC => some (.rnd (fieldX w) (fieldNN w))
  | 0xD => some (.drw (fieldX w) (fieldY w) (fieldN w).toNat)
  | 0xE => decodeGroupE w
  | 0xF => decodeGroupF w
  | _   => none

/-- The instruction a word stands for on this hardware (R8, R75). -/
def decode (w : Word) : Option Instr := decodeWith Config.params.strictSkipNibble w

/-- The big-endian word at the head of two bytes, the first at the lower address (20_memory.md R51). -/
def wordOfBytes (hi lo : Byte) : Word := hi ++ lo

/-- The two bytes of a word as memory holds them, the high byte first (20_memory.md R51). -/
def bytesOfWord (w : Word) : List Byte := [w.extractLsb' 8 8, w.extractLsb' 0 8]

/-- Why a byte sequence gives no instruction. -/
inductive DecodeError
  /-- Fewer than two bytes (every instruction is 2 bytes, R70). -/
  | truncated
  /-- The word matches no row of the opcode map (R80). -/
  | unrecognized (w : Word)
deriving DecidableEq, Repr

/-- Decode the first instruction of any byte sequence, and give the bytes after it (R70). -/
def decodeBytes : List Byte → Except DecodeError (Instr × List Byte)
  | hi :: lo :: rest =>
    match decode (wordOfBytes hi lo) with
    | some i => .ok (i, rest)
    | none => .error (.unrecognized (wordOfBytes hi lo))
  | [_] | [] => .error .truncated

/-- The decoder's reading of a word numbered as spec/opcode_table.json numbers it, laid out as the machine stores it.
The bits above `nbits` are 0, and every instruction is one 16-bit word (R70). -/
def decodeTableWord (nbits w : Nat) : Option Instr :=
  match decodeBytes (bytesOfWord (BitVec.ofNat 16 (w % 2 ^ nbits))) with
  | .ok (i, _) => some i
  | .error _ => none

/-! ### Encode -/

/-- The 4-bit field of a register index. -/
def regField (r : RegIdx) : BitVec 4 := BitVec.ofFin r

/-- A word G X Y N. -/
def wordGXYN (g : BitVec 4) (x y : RegIdx) (n : BitVec 4) : Word := g ++ regField x ++ regField y ++ n
/-- A word G X NN. -/
def wordGXNN (g : BitVec 4) (x : RegIdx) (nn : Byte) : Word := g ++ regField x ++ nn
/-- A word G NNN. -/
def wordGNNN (g : BitVec 4) (nnn : Addr) : Word := g ++ nnn

/-- The word of an instruction, from the Encoding line of its rule; bits the decoder ignores are 0 (R73, R84). -/
def encode : Instr → Word
  | .cls         => 0x00E0#16
  | .ret         => 0x00EE#16
  | .jp nnn      => wordGNNN 0x1 nnn
  | .call nnn    => wordGNNN 0x2 nnn
  | .seImm x nn  => wordGXNN 0x3 x nn
  | .sneImm x nn => wordGXNN 0x4 x nn
  | .seReg x y   => wordGXYN 0x5 x y 0x0
  | .ldImm x nn  => wordGXNN 0x6 x nn
  | .addImm x nn => wordGXNN 0x7 x nn
  | .ldReg x y   => wordGXYN 0x8 x y 0x0
  | .or x y      => wordGXYN 0x8 x y 0x1
  | .and x y     => wordGXYN 0x8 x y 0x2
  | .xor x y     => wordGXYN 0x8 x y 0x3
  | .addReg x y  => wordGXYN 0x8 x y 0x4
  | .sub x y     => wordGXYN 0x8 x y 0x5
  | .shr x       => wordGXYN 0x8 x 0 0x6
  | .subn x y    => wordGXYN 0x8 x y 0x7
  | .shl x       => wordGXYN 0x8 x 0 0xE
  | .sneReg x y  => wordGXYN 0x9 x y 0x0
  | .ldI nnn     => wordGNNN 0xA nnn
  | .jpV0 nnn    => wordGNNN 0xB nnn
  | .rnd x nn    => wordGXNN 0xC x nn
  | .drw x y n   => wordGXYN 0xD x y (BitVec.ofNat 4 n)
  | .skp x       => wordGXNN 0xE x 0x9E
  | .sknp x      => wordGXNN 0xE x 0xA1
  | .ldVxDt x    => wordGXNN 0xF x 0x07
  | .ldVxK x     => wordGXNN 0xF x 0x0A
  | .ldDtVx x    => wordGXNN 0xF x 0x15
  | .ldStVx x    => wordGXNN 0xF x 0x18
  | .addIVx x    => wordGXNN 0xF x 0x1E
  | .ldFVx x     => wordGXNN 0xF x 0x29
  | .ldBVx x     => wordGXNN 0xF x 0x33
  | .ldMemVx x   => wordGXNN 0xF x 0x55
  | .ldVxMem x   => wordGXNN 0xF x 0x65

/-! ### The opcode map as a table (R76), for statements about the decoder -/

/-- The mnemonic of an instruction, as spec/opcode_table.json spells it. -/
def Instr.mnemonic : Instr → String
  | .cls => "CLS" | .ret => "RET" | .jp _ => "JP" | .call _ => "CALL"
  | .seImm _ _ => "SE_IMM" | .sneImm _ _ => "SNE_IMM" | .seReg _ _ => "SE_REG"
  | .ldImm _ _ => "LD_IMM" | .addImm _ _ => "ADD_IMM" | .ldReg _ _ => "LD_REG"
  | .or _ _ => "OR" | .and _ _ => "AND" | .xor _ _ => "XOR" | .addReg _ _ => "ADD_REG"
  | .sub _ _ => "SUB" | .shr _ => "SHR" | .subn _ _ => "SUBN" | .shl _ => "SHL"
  | .sneReg _ _ => "SNE_REG" | .ldI _ => "LD_I" | .jpV0 _ => "JP_V0" | .rnd _ _ => "RND"
  | .drw _ _ _ => "DRW" | .skp _ => "SKP" | .sknp _ => "SKNP" | .ldVxDt _ => "LD_VX_DT"
  | .ldVxK _ => "LD_VX_K" | .ldDtVx _ => "LD_DT_VX" | .ldStVx _ => "LD_ST_VX"
  | .addIVx _ => "ADD_I_VX" | .ldFVx _ => "LD_F_VX" | .ldBVx _ => "LD_B_VX"
  | .ldMemVx _ => "LD_MEM_VX" | .ldVxMem _ => "LD_VX_MEM"

/-- A row of the opcode map: a word `w` is the row's instruction when `w AND mask = pattern` (R76). -/
structure OpcodeRow where
  mnemonic : String
  pattern  : Word
  mask     : Word
deriving DecidableEq, Repr

/-- Groups 0 to 7 of the map. -/
def opcodeRowsLow : List OpcodeRow :=
  [ ⟨"CLS", 0x00E0, 0xFFFF⟩, ⟨"RET", 0x00EE, 0xFFFF⟩, ⟨"JP", 0x1000, 0xF000⟩, ⟨"CALL", 0x2000, 0xF000⟩,
    ⟨"SE_IMM", 0x3000, 0xF000⟩, ⟨"SNE_IMM", 0x4000, 0xF000⟩, ⟨"SE_REG", 0x5000, 0xF000⟩,
    ⟨"LD_IMM", 0x6000, 0xF000⟩, ⟨"ADD_IMM", 0x7000, 0xF000⟩ ]

/-- Group 8 of the map. -/
def opcodeRowsAlu : List OpcodeRow :=
  [ ⟨"LD_REG", 0x8000, 0xF00F⟩, ⟨"OR", 0x8001, 0xF00F⟩, ⟨"AND", 0x8002, 0xF00F⟩, ⟨"XOR", 0x8003, 0xF00F⟩,
    ⟨"ADD_REG", 0x8004, 0xF00F⟩, ⟨"SUB", 0x8005, 0xF00F⟩, ⟨"SHR", 0x8006, 0xF00F⟩, ⟨"SUBN", 0x8007, 0xF00F⟩,
    ⟨"SHL", 0x800E, 0xF00F⟩ ]

/-- Groups 9 to F of the map. -/
def opcodeRowsHigh : List OpcodeRow :=
  [ ⟨"SNE_REG", 0x9000, 0xF000⟩, ⟨"LD_I", 0xA000, 0xF000⟩, ⟨"JP_V0", 0xB000, 0xF000⟩, ⟨"RND", 0xC000, 0xF000⟩,
    ⟨"DRW", 0xD000, 0xF000⟩, ⟨"SKP", 0xE09E, 0xF0FF⟩, ⟨"SKNP", 0xE0A1, 0xF0FF⟩,
    ⟨"LD_VX_DT", 0xF007, 0xF0FF⟩, ⟨"LD_VX_K", 0xF00A, 0xF0FF⟩, ⟨"LD_DT_VX", 0xF015, 0xF0FF⟩,
    ⟨"LD_ST_VX", 0xF018, 0xF0FF⟩, ⟨"ADD_I_VX", 0xF01E, 0xF0FF⟩, ⟨"LD_F_VX", 0xF029, 0xF0FF⟩,
    ⟨"LD_B_VX", 0xF033, 0xF0FF⟩, ⟨"LD_MEM_VX", 0xF055, 0xF0FF⟩, ⟨"LD_VX_MEM", 0xF065, 0xF0FF⟩ ]

/-- The opcode map of R76, with the masks of STRICT_SKIP_NIBBLE = false. -/
def opcodeMap : List OpcodeRow := opcodeRowsLow ++ opcodeRowsAlu ++ opcodeRowsHigh

/-- The word is the row's instruction (R76). -/
def OpcodeRow.matchesWord (r : OpcodeRow) (w : Word) : Prop := w &&& r.mask = r.pattern

end Sys2Proof
end

