-- ==== Sys2Proof/Machine/Memory.lean ====
section
/-! DEFINITION. Memory: 4096 bytes in one canonical form (10_state.md R33; 20_memory.md R50 to R53; DEDUCED, log entry 9). -/

namespace Sys2Proof.Machine

/-- The bytes of memory that differ from what Reset leaves, as (address, byte) pairs. -/
abbrev Memory := List Host.Cell

/-- What an address that is not listed reads as: what Reset leaves there, the font below 80 and 0x00 from there on
(70_reset_and_hazards.md R270, R273; 20_memory.md R57). -/
def Memory.unlisted (a : Nat) : Byte := if a < Config.fontSize then Config.font a else 0x00#8

/-- The byte at an address (20_memory.md R53, R56). Every access of an instruction is checked before it. -/
def Memory.read : Memory → Nat → Byte
  | [], a => Memory.unlisted a
  | c :: m, a => if c.1 = a then c.2 else Memory.read m a

/-- Store one byte, keeping the canonical form (20_memory.md R53, R56). -/
def Memory.write : Memory → Nat → Byte → Memory
  | [], a, b => if b = Memory.unlisted a then [] else [(a, b)]
  | c :: m, a, b =>
    if a < c.1 then (if b = Memory.unlisted a then c :: m else (a, b) :: c :: m)
    else if a = c.1 then (if b = Memory.unlisted a then m else (a, b) :: m)
    else c :: Memory.write m a b

/-- Store a run of bytes at rising addresses (20_memory.md R52). -/
def Memory.writeBytes : Memory → Nat → List Byte → Memory
  | m, _, [] => m
  | m, a, b :: bs => Memory.writeBytes (Memory.write m a b) (a + 1) bs

/-- Read a run of `n` bytes at rising addresses (20_memory.md R52). -/
def Memory.readBytes (m : Memory) (a n : Nat) : List Byte :=
  (List.range n).map (fun k => Memory.read m (a + k))

/-- The canonical form: addresses inside memory and strictly rising, no entry equal to what an unlisted address reads as. -/
abbrev Memory.wf (m : Memory) : Prop :=
  m.Pairwise (fun c d => c.1 < d.1) ∧ ∀ c ∈ m, c.1 < Config.memSize ∧ c.2 ≠ Memory.unlisted c.1

end Sys2Proof.Machine
end

