-- ==== Sys2Proof/Machine/State.lean ====
section
/-! DEFINITION. The state of the machine (10_state.md), its faults and refusals, and the state after Reset. -/

namespace Sys2Proof.Machine

/-- The fault kinds of 60_exceptions.md R231. -/
inductive FaultKind
  | fetchOutOfBounds
  | memOutOfBounds
  | stackOverflow
  | stackUnderflow
  | illegalOpcode
  | loadTooLarge
deriving DecidableEq, Repr

/-- The run status (10_state.md R35): RUNNING, or FAULTED with the kind, the address of the instruction that
faulted (PC before its Step) and the value recorded (60_exceptions.md R231). -/
inductive Status
  | running
  | faulted (kind : FaultKind) (pc : Word) (value : Nat)
deriving DecidableEq, Repr

/-- The 2048 pixels, a row of 64 of them for each y (R32, 43_display.md R170; DESIGN CHOICE, log entry 16). -/
abbrev Pixels := Vector (BitVec 64) 32

/-- The whole state of the machine (10_state.md, the table at its head). -/
structure State where
  /-- memory, R33 -/
  mem    : Memory
  /-- PC, R23 -/
  pc     : Word
  /-- V0..VF, R20 -/
  v      : Vector Byte 16
  /-- I, R26 -/
  i      : Word
  /-- the call-stack slots, R27 -/
  stack  : Vector Word 16
  /-- SP, the number of occupied slots, R27, R28 -/
  sp     : Nat
  /-- DT, the delay timer, R29 -/
  dt     : Byte
  /-- ST, the sound timer, R29 -/
  st     : Byte
  /-- the key states, true = down, R30 -/
  key    : Vector Bool 16
  /-- the pixels, R32: (x, y) is bit x of row y (DESIGN CHOICE, log entry 16) -/
  pix    : Pixels
  /-- the run status, R35 -/
  status : Status
  /-- the model's own counter of random draws (R31; DESIGN CHOICE, log entry 5) -/
  draws  : Nat
deriving DecidableEq, Repr

/-- Why a step stops. -/
inductive Fault
  /-- Raised by `step` in a FAULTED state, with the recorded kind and value: "returns Fault(kind, value) again and
  changes nothing" (40_cycle.md R97, 60_exceptions.md R233; DEDUCED, log entry 1). Safe: the spec's own stuck state. -/
  | faulted (kind : FaultKind) (value : Nat)
deriving DecidableEq, Repr

/-- Why an instruction has no meaning in the model. -/
inductive Refusal
  /-- Raised by an arm of `exec` whose instruction has no meaning yet. Safe. No arm of this model raises it. -/
  | notModelled (mnemonic : String)
deriving DecidableEq, Repr

/-- The outcome of an instruction or of a step. -/
abbrev Result := Host.Outcome State Fault Refusal

/-- The state `Reset(start)` leaves (70_reset_and_hazards.md R270, R271, R272). Memory lists nothing: `Memory.unlisted`
is the font and the zeros that Reset writes. -/
def State.resetAt (start : Word) : State :=
  { mem := [], pc := start, v := Vector.replicate 16 0x00#8, i := 0x0000#16, stack := Vector.replicate 16 0x0000#16,
    sp := 0, dt := 0x00#8, st := 0x00#8, key := Vector.replicate 16 false, pix := Vector.replicate 32 0#64, status := .running, draws := 0 }

/-- The machine right after reset, at the conventional start address (R272, R277; DESIGN CHOICE, log entry 6). -/
def State.reset : State := State.resetAt Config.conventionalStart

end Sys2Proof.Machine
end

