-- ==== Sys2Proof/Machine/Ops.lean ====
section
/-! DEFINITION. The named operations over registers, stack, keys and memory, taking a fault, and the return from it. -/

namespace Sys2Proof.Machine

/-! ### Registers (10_state.md R20, R23, R26, R29, R32) -/

/-- `V[r]` (R20). -/
def State.getV (s : State) (r : RegIdx) : Byte := s.v[r]

/-- `V[r] <- b` (R20): no register is hard-wired. -/
def State.setV (s : State) (r : RegIdx) (b : Byte) : State := { s with v := s.v.set r b }

/-- `PC <- a`, never checked (R24). -/
def State.setPc (s : State) (a : Word) : State := { s with pc := a }

/-- `I <- a`, never checked (R26). -/
def State.setI (s : State) (a : Word) : State := { s with i := a }

/-- `DT <- b` (R29). -/
def State.setDt (s : State) (b : Byte) : State := { s with dt := b }

/-- `ST <- b` (R29). -/
def State.setSt (s : State) (b : Byte) : State := { s with st := b }

/-- The new pixels (R32). -/
def State.setPix (s : State) (p : Pixels) : State := { s with pix := p }

/-- The new memory (R33). -/
def State.setMem (s : State) (m : Memory) : State := { s with mem := m }

/-- The advance before dispatch: `PC <- PC + 2` (40_cycle.md R92). -/
def State.advance (s : State) : State := s.setPc (s.pc + 2)

/-- A skip whose condition holds advances PC by 2 once more (41_control_flow.md R110). -/
def State.skipIf (s : State) (cond : Bool) : State := if cond then s.setPc (s.pc + 2) else s

/-! ### Call stack (10_state.md R27) -/

/-- `stack[k]`. No run reads a slot past the sixteenth (R28; DESIGN CHOICE, log entry 8). -/
def State.slot (s : State) (k : Nat) : Word := s.stack[k]?.getD 0x0000#16

/-- `stack[SP] <- a; SP <- SP + 1` (41_control_flow.md R113). -/
def State.push (s : State) (a : Word) : State := { s with stack := s.stack.setIfInBounds s.sp a, sp := s.sp + 1 }

/-- `SP <- SP - 1; PC <- stack[SP]`; the slot keeps its value (41_control_flow.md R111, 10_state.md R27). -/
def State.popToPc (s : State) : State := { s with sp := s.sp - 1, pc := s.slot (s.sp - 1) }

/-! ### Keys (10_state.md R30, 44_keypad_timers.md R190) -/

/-- Key `k` is down; an index of 16 or more is not pressed (R190). -/
def State.keyDown (s : State) (k : Nat) : Bool := s.key[k]?.getD false

/-- The lowest key that is down, scanning 0..15 in ascending order (44_keypad_timers.md R194). -/
def State.firstKeyDown (s : State) : Option Nat := (List.range 16).find? s.keyDown

/-! ### The random source (10_state.md R31, 42_alu.md R143) -/

/-- The byte of the next draw, a free value (DESIGN CHOICE, log entry 5). -/
def State.drawByte (s : State) : Byte := Config.rand s.draws

/-- The next draw is a fresh one. -/
def State.countDraw (s : State) : State := { s with draws := s.draws + 1 }

/-! ### Memory (20_memory.md R50 to R56) -/

/-- `MemRead(a, 1)` at an address already checked (R53). -/
def State.readByte (s : State) (a : Nat) : Byte := s.mem.read a

/-- A checked run of bytes read (R52, R54). -/
def State.readBytes (s : State) (a n : Nat) : List Byte := s.mem.readBytes a n

/-- A checked run of bytes stored (R52, R54). -/
def State.storeBytes (s : State) (a : Nat) (bs : List Byte) : State := s.setMem (s.mem.writeBytes a bs)

/-- The big-endian word at `[PC, PC+1]` (R51, 40_cycle.md R91). -/
def State.fetchWord (s : State) : Word := wordOfBytes (s.readByte s.pc.toNat) (s.readByte (s.pc.toNat + 1))

/-! ### Taking a fault, and leaving FAULTED (40_cycle.md R96, R97; 60_exceptions.md R230 to R239) -/

/-- Taking a fault: PC is that of the instruction again, everything else is as before the Step, and the status records
the kind, that PC and the value (R96, R231, R232). Every rule checks before its first write, so nothing else is undone. -/
def State.raiseFault (s : State) (addr : Word) (kind : FaultKind) (value : Nat) : State :=
  { s with pc := addr, status := .faulted kind addr value }

/-- `raise Fault(kind, value)` inside an instruction, which runs after the advance of R92: the advance is undone (R96).
The machine goes to a next state, FAULTED (DEDUCED, log entry 1). -/
def raise (kind : FaultKind) (value : Nat) (s : State) : Result := .next (s.raiseFault (s.pc - 2) kind value)

/-- `Reset(start)`, the only way back from FAULTED (R233, R238, 70_reset_and_hazards.md R270, R271). The model's own
draw counter goes on, so that no draw is made twice (DESIGN CHOICE, log entry 5). -/
def State.hostReset (s : State) (start : Word) : State := { State.resetAt start with draws := s.draws }

end Sys2Proof.Machine
end

