-- ==== Sys2Proof/Machine/Operands.lean ====
section
/-! DEFINITION. Every operand form of the instruction set (30_encoding.md R72; 20_memory.md R53, R54). Registers are read
with `State.getV`, the immediate NN is used as is, and the two others are here: NNN zero-extended, and memory at I. -/

namespace Sys2Proof.Machine

/-- `zext_16(NNN)` (R72). -/
def zextAddr (nnn : Addr) : Word := nnn.setWidth 16

/-- `zext_16(b)` of a register's value (R9, R72). -/
def zextByte (b : Byte) : Word := b.setWidth 16

/-- The effective address `I + k`, an unbounded natural (R53). -/
def State.effAddr (s : State) (k : Nat) : Nat := s.i.toNat + k

/-- The access range `I .. I+n-1` reaches 4096; an empty range never does (R54). -/
def State.rangeOut (s : State) (n : Nat) : Bool := decide (0 < n ∧ Config.memSize ≤ s.effAddr (n - 1))

/-- The lowest address of the range at or above 4096, `max(I, 4096)` (R54). -/
def State.rangeFaultAddr (s : State) : Nat := max s.i.toNat Config.memSize

/-- An instruction that accesses `I .. I+n-1` checks the whole range before any effect (R54). -/
def withRange (n : Nat) (s : State) (effect : State) : Result :=
  if s.rangeOut n then raise .memOutOfBounds s.rangeFaultAddr s else .next effect

end Sys2Proof.Machine
end

