-- ==== Sys2Proof/Machine/Alu.lean ====
section
/-! DEFINITION. Register file and ALU: loads, arithmetic, logic, shifts, the index register and the random byte
(42_alu.md R130 to R146). No instruction of this family can fault (R130). -/

namespace Sys2Proof.Machine

/-- The five flag-writing instructions: the result goes to V[X], then the flag to VF, both from pre-operation values
(R130; 10_state.md R21; conflict C3). -/
def State.setWithFlag (s : State) (x : RegIdx) (result : Byte) (flag : Bool) : State :=
  (s.setV x result).setV VF (flagByte flag)

/-- LD Vx, byte (R131). -/
def execLdImm (x : RegIdx) (nn : Byte) (s : State) : Result := .next (s.setV x nn)

/-- ADD Vx, byte (R132): modulo 256, no flag. -/
def execAddImm (x : RegIdx) (nn : Byte) (s : State) : Result := .next (s.setV x (s.getV x + nn))

/-- LD Vx, Vy (R133). -/
def execLdReg (x y : RegIdx) (s : State) : Result := .next (s.setV x (s.getV y))

/-- OR Vx, Vy (R134): VF is not reset. -/
def execOr (x y : RegIdx) (s : State) : Result := .next (s.setV x (s.getV x ||| s.getV y))

/-- AND Vx, Vy (R135): VF is not reset. -/
def execAnd (x y : RegIdx) (s : State) : Result := .next (s.setV x (s.getV x &&& s.getV y))

/-- XOR Vx, Vy (R136): VF is not reset. -/
def execXor (x y : RegIdx) (s : State) : Result := .next (s.setV x (s.getV x ^^^ s.getV y))

/-- ADD Vx, Vy (R137): VF is the carry. -/
def execAddReg (x y : RegIdx) (s : State) : Result :=
  .next (s.setWithFlag x (s.getV x + s.getV y) (carryFlag (s.getV x) (s.getV y)))

/-- SUB Vx, Vy (R138): VF = 1 exactly when V[X] > V[Y]. -/
def execSub (x y : RegIdx) (s : State) : Result :=
  .next (s.setWithFlag x (s.getV x - s.getV y) (greaterFlag (s.getV x) (s.getV y)))

/-- SHR Vx (R139): VF is the bit shifted out; Y is ignored. -/
def execShr (x : RegIdx) (s : State) : Result :=
  .next (s.setWithFlag x (s.getV x >>> 1) (lowBitFlag (s.getV x)))

/-- SUBN Vx, Vy (R140): VF = 1 exactly when V[Y] > V[X]. -/
def execSubn (x y : RegIdx) (s : State) : Result :=
  .next (s.setWithFlag x (s.getV y - s.getV x) (greaterFlag (s.getV y) (s.getV x)))

/-- SHL Vx (R141): VF is the bit shifted out; Y is ignored. -/
def execShl (x : RegIdx) (s : State) : Result :=
  .next (s.setWithFlag x (s.getV x <<< 1) (highBitFlag (s.getV x)))

/-- LD I, addr (R142). -/
def execLdI (nnn : Addr) (s : State) : Result := .next (s.setI (zextAddr nnn))

/-- RND Vx, byte (R143): a fresh free byte AND NN (DESIGN CHOICE, log entry 5). -/
def execRnd (x : RegIdx) (nn : Byte) (s : State) : Result := .next ((s.setV x (s.drawByte &&& nn)).countDraw)

/-- ADD I, Vx (R144): modulo 65536, no flag. -/
def execAddIVx (x : RegIdx) (s : State) : Result := .next (s.setI (s.i + zextByte (s.getV x)))

/-- LD F, Vx (R145): I = V[X] * 5, not masked. -/
def execLdFVx (x : RegIdx) (s : State) : Result := .next (s.setI (zextByte (s.getV x) * 5))

end Sys2Proof.Machine
end

