-- ==== Sys2Proof/Machine/ControlFlow.lean ====
section
/-! DEFINITION. Control flow: RET, JP, CALL, the four comparing skips and JP V0 (41_control_flow.md R110 to R119).
Every meaning runs after the advance of 40_cycle.md R92: PC is the instruction's address plus 2. -/

namespace Sys2Proof.Machine

/-- RET (R111). -/
def execRet (s : State) : Result :=
  if s.sp = 0 then raise .stackUnderflow 0 s else .next s.popToPc

/-- JP addr (R112). -/
def execJp (nnn : Addr) (s : State) : Result := .next (s.setPc (zextAddr nnn))

/-- CALL addr (R113): the pushed PC is the CALL's address plus 2. -/
def execCall (nnn : Addr) (s : State) : Result :=
  if 16 ≤ s.sp then raise .stackOverflow 16 s else .next ((s.push s.pc).setPc (zextAddr nnn))

/-- SE Vx, byte (R114). -/
def execSeImm (x : RegIdx) (nn : Byte) (s : State) : Result := .next (s.skipIf (s.getV x == nn))

/-- SNE Vx, byte (R115). -/
def execSneImm (x : RegIdx) (nn : Byte) (s : State) : Result := .next (s.skipIf (s.getV x != nn))

/-- SE Vx, Vy (R116). -/
def execSeReg (x y : RegIdx) (s : State) : Result := .next (s.skipIf (s.getV x == s.getV y))

/-- SNE Vx, Vy (R117). -/
def execSneReg (x y : RegIdx) (s : State) : Result := .next (s.skipIf (s.getV x != s.getV y))

/-- JP V0, addr (R118): not wrapped to 12 bits. -/
def execJpV0 (nnn : Addr) (s : State) : Result := .next (s.setPc (zextAddr nnn + zextByte (s.getV 0)))

end Sys2Proof.Machine
end

