-- ==== Sys2Proof/Machine/Display.lean ====
section
/-! DEFINITION. The framebuffer, the sprite compositor and the collision detector: CLS and DRW (43_display.md R170 to R175). -/

namespace Sys2Proof.Machine

/-- The number of columns (R170). -/
abbrev screenWidth : Nat := 64
/-- The number of rows (R170). -/
abbrev screenHeight : Nat := 32

/-- `pix(x, y)` (R170). -/
def pixelAt (p : Pixels) (x y : Nat) : Bool := (p[y]?.getD 0#64).getLsbD x

/-- `pix(x, y) <- pix(x, y) XOR 1` (R172). -/
def flipPixel (p : Pixels) (x y : Nat) : Pixels := p.setIfInBounds y ((p[y]?.getD 0#64) ^^^ (1#64 <<< x))

/-- Every pixel 0 (R171). -/
def blankPixels : Pixels := Vector.replicate 32 0#64

/-- The pixels and the collision seen so far, while a sprite is drawn (R172). -/
structure Canvas where
  pix : Pixels
  hit : Bool
deriving DecidableEq, Repr

/-- Where a sprite pixel lands: skipped past an edge under Clip (R173), reduced per pixel under Wrap (R174). -/
def spriteTarget (edge : Config.SpriteEdge) (cx cy : Nat) : Option (Nat × Nat) :=
  match edge with
  | .clip => if screenWidth ≤ cx ∨ screenHeight ≤ cy then none else some (cx, cy)
  | .wrap => some (cx % screenWidth, cy % screenHeight)

/-- One set sprite bit: test for collision, then XOR (R172, R173). -/
def drawPixel (edge : Config.SpriteEdge) (cx cy : Nat) (c : Canvas) : Canvas :=
  match spriteTarget edge cx cy with
  | none => c
  | some (x, y) => { pix := flipPixel c.pix x y, hit := c.hit || pixelAt c.pix x y }

/-- Bit `b` of a sprite row counted from the left, "most-significant bit first" (R170). -/
def spriteBit (row : Byte) (b : Nat) : Bool := row.getLsbD (7 - b)

/-- One sprite row of 8 bits at `(ox, cy)` (R172). -/
def drawRow (edge : Config.SpriteEdge) (ox cy : Nat) (row : Byte) (c : Canvas) : Canvas :=
  (List.range 8).foldl (fun c b => if spriteBit row b then drawPixel edge (ox + b) cy c else c) c

/-- The sprite's rows, downwards from `(ox, oy)` (R172). -/
def drawRows (edge : Config.SpriteEdge) (ox : Nat) : Nat → List Byte → Canvas → Canvas
  | _, [], c => c
  | oy, row :: rows, c => drawRows edge ox (oy + 1) rows (drawRow edge ox oy row c)

/-- The sprite's origin column, `V[X] mod 64` (R172). -/
def State.originX (s : State) (x : RegIdx) : Nat := (s.getV x).toNat % screenWidth

/-- The sprite's origin row, `V[Y] mod 32` (R172). -/
def State.originY (s : State) (y : RegIdx) : Nat := (s.getV y).toNat % screenHeight

/-- The canvas after the sprite of `n` rows at I is drawn at the origin V[X], V[Y], both read before VF is reset (R172). -/
def State.drawSprite (edge : Config.SpriteEdge) (x y : RegIdx) (n : Nat) (s : State) : Canvas :=
  drawRows edge (s.originX x) (s.originY y) (s.readBytes s.i.toNat n) { pix := s.pix, hit := false }

/-- CLS (R171). -/
def execCls (s : State) : Result := .next (s.setPix blankPixels)

/-- DRW Vx, Vy, nibble under a value of SPRITE_EDGE (R172 to R174). -/
def execDrwWith (edge : Config.SpriteEdge) (x y : RegIdx) (n : Nat) (s : State) : Result :=
  withRange n s
    ((s.setPix (s.drawSprite edge x y n).pix).setV VF (flagByte (s.drawSprite edge x y n).hit))

/-- DRW Vx, Vy, nibble on this hardware (R172, R173). -/
def execDrw (x y : RegIdx) (n : Nat) (s : State) : Result := execDrwWith Config.params.spriteEdge x y n s

end Sys2Proof.Machine
end

