-- ==== Sys2Proof/Machine/KeypadTimers.lean ====
section
/-! DEFINITION. The keypad latch and the timer instructions (44_keypad_timers.md R190 to R197). None can fault (R190). -/

namespace Sys2Proof.Machine

/-- SKP Vx (R191). -/
def execSkp (x : RegIdx) (s : State) : Result := .next (s.skipIf (s.keyDown (s.getV x).toNat))

/-- SKNP Vx (R192): an index of 16 or more always skips. -/
def execSknp (x : RegIdx) (s : State) : Result := .next (s.skipIf (!s.keyDown (s.getV x).toNat))

/-- LD Vx, DT (R193). -/
def execLdVxDt (x : RegIdx) (s : State) : Result := .next (s.setV x s.dt)

/-- LD Vx, K (R194, R197): the lowest key down, or back to the instruction's own address. The outcome StillWaiting is
`State.hostStep`'s (DEDUCED, log entry 2). -/
def execLdVxK (x : RegIdx) (s : State) : Result :=
  match s.firstKeyDown with
  | some k => .next (s.setV x (BitVec.ofNat 8 k))
  | none => .next (s.setPc (s.pc - 2))

/-- LD DT, Vx (R195). -/
def execLdDtVx (x : RegIdx) (s : State) : Result := .next (s.setDt (s.getV x))

/-- LD ST, Vx (R196). -/
def execLdStVx (x : RegIdx) (s : State) : Result := .next (s.setSt (s.getV x))

end Sys2Proof.Machine
end

