-- ==== Sys2Proof/Machine/MemoryTransfer.lean ====
section
/-! DEFINITION. The memory transfer instructions: BCD store, register store and register load (45_memory_transfer.md
R210 to R213). I is not changed (10_state.md R26). -/

namespace Sys2Proof.Machine

/-- The decimal digits of a byte, hundreds first (R210). -/
def bcdDigits (b : Byte) : List Byte :=
  [BitVec.ofNat 8 (b.toNat / 100), BitVec.ofNat 8 (b.toNat / 10 % 10), BitVec.ofNat 8 (b.toNat % 10)]

/-- The registers V0..VX, inclusive (R211). -/
def State.regsUpTo (s : State) (x : RegIdx) : List Byte := s.v.toList.take (x.val + 1)

/-- The registers after V0..VX are loaded from memory at I; those above X are untouched (R212). -/
def State.loadRegs (s : State) (x : RegIdx) : State :=
  { s with v := Vector.ofFn fun k => if k ≤ x then s.readByte (s.effAddr k) else s.v[k] }

/-- LD B, Vx (R210). -/
def execLdBVx (x : RegIdx) (s : State) : Result :=
  withRange 3 s (s.storeBytes s.i.toNat (bcdDigits (s.getV x)))

/-- LD [I], Vx (R211). -/
def execLdMemVx (x : RegIdx) (s : State) : Result :=
  withRange (x.val + 1) s (s.storeBytes s.i.toNat (s.regsUpTo x))

/-- LD Vx, [I] (R212). -/
def execLdVxMem (x : RegIdx) (s : State) : Result :=
  withRange (x.val + 1) s (s.loadRegs x)

end Sys2Proof.Machine
end

