-- ==== Sys2Proof/Machine/Cycle.lean ====
section
/-! DEFINITION. The execute-one-instruction cycle (40_cycle.md R90 to R98), and how a word comes to stand at PC. -/

namespace Sys2Proof.Machine

/-- `exec` under any value of the parameters: SPRITE_EDGE is the only one a meaning reads (43_display.md R173, R174). -/
def execWith (p : Config.Params) (i : Instr) (s : State) : Result :=
  match i with
  | .drw x y n => execDrwWith p.spriteEdge x y n s
  | other => exec other s

/-- PC + 1 lies inside memory, the precondition of a fetch (R91). -/
def State.fetchOk (s : State) : Bool := decide (s.pc.toNat + 1 < Config.memSize)

/-- A word no row of the map matches, after the advance: the fallback of group 0 under SYS_POLICY = Nop, ILLEGAL_OPCODE
everywhere else (30_encoding.md R80, R81). -/
def execUnrecognized (p : Config.Params) (w : Word) (s : State) : Result :=
  if p.sysPolicy = .nop ∧ fieldG w = 0x0#4 then .next s else raise .illegalOpcode w.toNat s

/-- `Step()` under any value of the parameters (R90): the sticky fault (R97), the fetch check (R91), fetch, advance
(R92), decode (R93, R94), execute. -/
def stepWith (p : Config.Params) (s : State) : Result :=
  match s.status with
  | .faulted kind _ value => .fault (.faulted kind value)
  | .running =>
    if s.fetchOk then
      match decodeWith p.strictSkipNibble s.fetchWord with
      | some i => execWith p i s.advance
      | none => execUnrecognized p s.fetchWord s.advance
    else .next (s.raiseFault s.pc .fetchOutOfBounds s.pc.toNat)

/-- `Step()` on this hardware (R90; 00_scope.md R8). -/
def cycle (s : State) : Result := stepWith Config.params s

/-- The state fetches at its next step: it is RUNNING, and PC is one a fetch may use (DESIGN CHOICE, log entry 11). -/
def State.readyToFetch (s : State) : State :=
  { s with status := .running, pc := if s.fetchOk then s.pc else Config.conventionalStart }

/-- A word placed at PC, its high byte first (20_memory.md R51), as Load would place it (70_reset_and_hazards.md R274). -/
def State.placeWord (s : State) (w : Word) : State := s.storeBytes s.pc.toNat (bytesOfWord w)

end Sys2Proof.Machine
end

