-- ==== Sys2Proof/Machine/Step.lean ====
section
/-! DEFINITION. One step of the machine: `Step()` (40_cycle.md R90). -/

namespace Sys2Proof.Machine

/-- One Step. -/
def step : State → Host.Outcome State Fault Refusal := fun s => cycle s

/-- The state with a table word stored where `step` fetches its next instruction (log entries 10, 11). -/
def State.withFetchWord (s : State) (nbits w : Nat) : State :=
  s.readyToFetch.placeWord (BitVec.ofNat 16 (w % 2 ^ nbits))

end Sys2Proof.Machine
end

