-- ==== Sys2Proof/Machine/HostOps.lean ====
section
/-! DEFINITION. The host operations (10_state.md R40; 60_exceptions.md R242 to R250; 70_reset_and_hazards.md R270 to R277).
`step` is the Step operation alone; here it stands beside the others, with the outcome of 00_scope.md R11. -/

namespace Sys2Proof.Machine

/-- The numeric code of a fault kind (60_exceptions.md R231). -/
def FaultKind.code : FaultKind → Nat
  | .fetchOutOfBounds => 1
  | .memOutOfBounds   => 2
  | .stackOverflow    => 3
  | .stackUnderflow   => 4
  | .illegalOpcode    => 5
  | .loadTooLarge     => 6

/-- The record ReadState returns: the spec's state, without the model's own draw counter (60_exceptions.md R247). -/
structure StateRecord where
  mem    : Memory
  pc     : Word
  v      : Vector Byte 16
  i      : Word
  stack  : Vector Word 16
  sp     : Nat
  dt     : Byte
  st     : Byte
  key    : Vector Bool 16
  pix    : Pixels
  status : Status
deriving DecidableEq, Repr

/-- The state as ReadState gives it (R247). -/
def State.record (s : State) : StateRecord :=
  { mem := s.mem, pc := s.pc, v := s.v, i := s.i, stack := s.stack, sp := s.sp, dt := s.dt, st := s.st, key := s.key,
    pix := s.pix, status := s.status }

/-- The operations of 10_state.md R40. The index of SetKey is any integer (92_eei_decisions.md D29). -/
inductive HostOp
  | reset (start : Word)
  | load (base : Nat) (bytes : List Byte)
  | step
  | tick
  | setKey (index : Int) (pressed : Bool)
  | readDisplay
  | readSound
  | readState
deriving DecidableEq, Repr

/-- What an operation returns (10_state.md R40; 00_scope.md R11). -/
inductive HostResult
  /-- Reset, Tick, SetKey: nothing. -/
  | done
  /-- Load that succeeded. -/
  | ok
  /-- Load that failed: fault kind 6, with base and length (60_exceptions.md R231, R239). -/
  | loadTooLarge (base length : Nat)
  /-- Step: the instruction ran. -/
  | completed
  /-- Step: FX0A found no key down. -/
  | stillWaiting
  /-- Step: a fault, new or recorded. -/
  | fault (kind : FaultKind) (value : Nat)
  /-- Step: the model refused. No step of this model does. -/
  | refused (r : Refusal)
  /-- ReadDisplay: the 2048 pixel bits. -/
  | display (pix : Pixels)
  /-- ReadSound: ST. -/
  | sound (st : Byte)
  /-- ReadState: the whole record. -/
  | stateRecord (r : StateRecord)
deriving DecidableEq, Repr

/-- The next Step executes FX0A with no key down (44_keypad_timers.md R194): its outcome is StillWaiting. -/
def State.waitsForKey (s : State) : Bool :=
  match decode s.fetchWord with
  | some (.ldVxK _) => s.firstKeyDown.isNone
  | _ => false

/-- `Step()` with its outcome and the state it leaves (40_cycle.md R90, R96, R97, R98; 00_scope.md R11). -/
def State.hostStep (s : State) : HostResult × State :=
  match step s with
  | .next t =>
    match t.status with
    | .faulted kind _ value => (.fault kind value, t)
    | .running => (if s.waitsForKey then .stillWaiting else .completed, t)
  | .fault (.faulted kind value) => (.fault kind value, s)
  | .refused r => (.refused r, s)

/-- `b - 1` where `b > 0`, else 0 (60_exceptions.md R242). -/
def tickDown (b : Byte) : Byte := if b = 0x00#8 then 0x00#8 else b - 1

/-- `Tick()` (60_exceptions.md R242, R243). -/
def State.hostTick (s : State) : State := { s with dt := tickDown s.dt, st := tickDown s.st }

/-- `SetKey(index, pressed)` (60_exceptions.md R244). -/
def State.hostSetKey (s : State) (index : Int) (pressed : Bool) : State :=
  if 0 ≤ index ∧ index ≤ 15 then { s with key := s.key.setIfInBounds index.toNat pressed } else s

/-- `Load(base, bytes)` (70_reset_and_hazards.md R274, R275). -/
def State.hostLoad (s : State) (base : Nat) (bytes : List Byte) : HostResult × State :=
  if base + bytes.length > Config.memSize then (.loadTooLarge base bytes.length, s)
  else (.ok, s.storeBytes base bytes)

/-- One host operation: what it returns and the state it leaves (10_state.md R40). -/
def hostOp (op : HostOp) (s : State) : HostResult × State :=
  match op with
  | .reset start => (.done, s.hostReset start)
  | .load base bytes => s.hostLoad base bytes
  | .step => s.hostStep
  | .tick => (.done, s.hostTick)
  | .setKey index pressed => (.done, s.hostSetKey index pressed)
  | .readDisplay => (.display s.pix, s)
  | .readSound => (.sound s.st, s)
  | .readState => (.stateRecord s.record, s)

/-- The state after a sequence of host operations (60_exceptions.md R250). -/
def State.runOps (s : State) (ops : List HostOp) : State := ops.foldl (fun t op => (hostOp op t).2) s

/-- The tone should be playing (60_exceptions.md R246). -/
def State.toneOn (s : State) : Bool := s.st != 0x00#8

end Sys2Proof.Machine
end

