-- ==== Sys2Proof/Safety.lean ====
section
/-! DEFINITION. What counts as a safe run, and the terms statements use: the invariant of the machine, reachability,
the frame of an instruction, and the end of a run. -/

namespace Sys2Proof.Machine

/-- The status is RUNNING: no fault has been taken (10_state.md R35; 60_exceptions.md R233). -/
abbrev State.isRunning (s : State) : Prop := s.status = .running

/-- A fault record as 60_exceptions.md R231 allows it: LOAD_TOO_LARGE never sets FAULTED (R239). -/
def faultRecordOk : FaultKind → Word → Nat → Prop
  | .fetchOutOfBounds, pc, value => value = pc.toNat ∧ 4095 ≤ pc.toNat
  | .memOutOfBounds,   pc, value => pc.toNat ≤ 4094 ∧ 4096 ≤ value ∧ value ≤ 65535
  | .stackOverflow,    pc, value => pc.toNat ≤ 4094 ∧ value = 16
  | .stackUnderflow,   pc, value => pc.toNat ≤ 4094 ∧ value = 0
  | .illegalOpcode,    pc, value => pc.toNat ≤ 4094 ∧ value ≤ 65535 ∧ decode (BitVec.ofNat 16 value) = none
  | .loadTooLarge,     _,  _     => False

/-- The status is RUNNING, or records a legal fault of the instruction PC still points at (R96, R231, R232). -/
def State.statusOk (s : State) : Prop :=
  match s.status with
  | .running => True
  | .faulted kind pc value => pc = s.pc ∧ faultRecordOk kind pc value

/-- The invariant of the machine: memory in canonical form, `0 <= SP <= 16` (10_state.md R28), every stack slot a
return address a CALL could push, at most 0x1000 (41_control_flow.md R111, R113), and a legal status. -/
structure State.Inv (s : State) : Prop where
  mem_wf    : s.mem.wf
  sp_le     : s.sp ≤ 16
  stack_le  : ∀ k : Fin 16, (s.stack[k]).toNat ≤ 0x1000
  status_ok : s.statusOk

/-- A state some sequence of host operations leads to, Reset first (60_exceptions.md R250; 10_state.md R37). -/
def State.Reachable (s : State) : Prop := ∃ start ops, s = (State.resetAt start).runOps ops

/-- The components of the state (10_state.md), with the model's own draw counter. -/
inductive Component
  | mem | pc | v | i | stack | sp | dt | st | key | pix | status | draws
deriving DecidableEq, Repr

/-- A frame: every component outside `cs` is as before; of memory, every byte reads as before. -/
structure unchangedBut (cs : List Component) (s t : State) : Prop where
  mem    : .mem ∉ cs → ∀ a, t.readByte a = s.readByte a
  pc     : .pc ∉ cs → t.pc = s.pc
  v      : .v ∉ cs → ∀ r, t.getV r = s.getV r
  i      : .i ∉ cs → t.i = s.i
  stack  : .stack ∉ cs → ∀ k : Fin 16, t.stack[k] = s.stack[k]
  sp     : .sp ∉ cs → t.sp = s.sp
  dt     : .dt ∉ cs → t.dt = s.dt
  st     : .st ∉ cs → t.st = s.st
  key    : .key ∉ cs → ∀ k : Fin 16, t.key[k] = s.key[k]
  pix    : .pix ∉ cs → t.pix = s.pix
  status : .status ∉ cs → t.status = s.status
  draws  : .draws ∉ cs → t.draws = s.draws

/-- Only the registers listed may have changed: every other component and every other register is as before. -/
def onlyRegs (rs : List RegIdx) (s t : State) : Prop :=
  unchangedBut [.v] s t ∧ ∀ r, r ∉ rs → t.getV r = s.getV r

/-- The fault `raise Fault(kind, value)` leaves inside an instruction, which runs on the state after the advance: PC is
the instruction's own address again, the status records it, and nothing else changes (40_cycle.md R96). -/
def faultTaken (kind : FaultKind) (value : Nat) (s t : State) : Prop :=
  t.pc = s.pc - 2 ∧ t.status = .faulted kind (s.pc - 2) value ∧ unchangedBut [.pc, .status] s t

/-- The length n of the byte range `I .. I+n-1` an instruction accesses (20_memory.md R54), 0 for one that accesses none. -/
def accessLength : Instr → Nat
  | .drw _ _ n => n
  | .ldBVx _ => 3
  | .ldMemVx x => x.val + 1
  | .ldVxMem x => x.val + 1
  | _ => 0

/-- The byte range an instruction accesses lies inside memory; an empty one always does (R54). -/
def State.rangeFits (s : State) (n : Nat) : Prop := n = 0 ∨ s.i.toNat + n ≤ 4096

/-- A set bit of the sprite of `n` rows at I, drawn at the origin V[x], V[y], falls on `(px, py)`, before the edge of the
screen is looked at (43_display.md R172). -/
def State.spriteCovers (s : State) (x y : RegIdx) (n px py : Nat) : Prop :=
  ∃ r b, r < n ∧ b < 8 ∧ (s.readByte (s.i.toNat + r)).getLsbD (7 - b) = true ∧
    px = (s.getV x).toNat % 64 + b ∧ py = (s.getV y).toNat % 32 + r

/-- The same under SPRITE_EDGE = Wrap: each target is reduced per pixel (43_display.md R174). -/
def State.spriteCoversWrapped (s : State) (x y : RegIdx) (n px py : Nat) : Prop :=
  ∃ r b, r < n ∧ b < 8 ∧ (s.readByte (s.i.toNat + r)).getLsbD (7 - b) = true ∧
    px = ((s.getV x).toNat % 64 + b) % 64 ∧ py = ((s.getV y).toNat % 32 + r) % 32

/-- What DRW leaves, for the points its set sprite bits cover: each such pixel on screen is flipped and no other, VF = 1
where one of them was lit before and else 0, and nothing else changes (43_display.md R172). -/
def spriteDrawn (covers : Nat → Nat → Prop) (s t : State) : Prop :=
  (∀ px < 64, ∀ py < 32, (covers px py → pixelAt t.pix px py = !pixelAt s.pix px py) ∧
    (¬ covers px py → pixelAt t.pix px py = pixelAt s.pix px py)) ∧
  ((∃ px < 64, ∃ py < 32, covers px py ∧ pixelAt s.pix px py = true) → t.getV VF = 0x01#8) ∧
  ((¬ ∃ px < 64, ∃ py < 32, covers px py ∧ pixelAt s.pix px py = true) → t.getV VF = 0x00#8) ∧
  unchangedBut [.v, .pix] s t ∧ ∀ r, r ≠ VF → t.getV r = s.getV r

/-- Any state at all, but for the call stack and SP, which are those of `s`: what may stand between two calls or returns
"with no other stack change between" (41_control_flow.md R119). -/
def State.withStackOf (r s : State) : State := { r with stack := s.stack, sp := s.sp }

/-- A sequence of CALLs (41_control_flow.md R119). Each pair gives the state a CALL is fetched in, but for the stack, so
its PC is the address of that CALL, and the CALL's target. -/
def callAll : List (State × Addr) → State → Result
  | [], s => .next s
  | (c, nnn) :: calls, s =>
    match exec (.call nnn) (c.withStackOf s).advance with
    | .next t => callAll calls t
    | .fault f => .fault f
    | .refused r => .refused r

/-- A sequence of RETs, each fetched in the state listed but for the stack: the PCs they resume at, and the state after
the last (41_control_flow.md R119). -/
def returnAll : List State → State → List Word × State
  | [], s => ([], s)
  | r :: rets, s =>
    match exec .ret (r.withStackOf s).advance with
    | .next t => (t.pc :: (returnAll rets t).1, (returnAll rets t).2)
    | .fault _ | .refused _ => ([], s)

/-- A run has ended: RUNNING, and the next word is a JP to its own address (70_reset_and_hazards.md R278). -/
def State.runEnded (s : State) : Prop :=
  s.isRunning ∧ s.pc.toNat + 1 < 4096 ∧ s.fetchWord = 0x1000#16 ||| s.pc

/-- A step is safe where it answers a next state that is RUNNING (60_exceptions.md R233). -/
def State.safeStep (s : State) : Prop := ∃ t, step s = .next t ∧ t.isRunning

end Sys2Proof.Machine
end

