-- ==== Sys2Proof/Certificates/Slice0/Obligations.lean ====
section
/-! DEFINITION. The statements about the machine, one `def Obligations.<Name> : Prop` each, listed in OBLIGATIONS.json. -/

open Sys2Proof Sys2Proof.Machine

/-! ### Encoding (30_encoding.md) -/

/-- Decoding the word of a well-formed instruction gives the instruction back, every operand at every value (R71, R76). -/
def Obligations.DecodeEncodeRoundTrip : Prop :=
  ∀ i : Instr, i.wellFormed = true → decode (encode i) = some i

/-- Encoding a decoded instruction gives its word back, but for the bits the decoder ignores, which are 0 (R73, R84). -/
def Obligations.EncodeDecodeKeepsOperandBits : Prop :=
  ∀ (w : Word) (i : Instr), decode w = some i → i.wellFormed = true ∧
    encode i = match i with
      | .seReg _ _ | .sneReg _ _ => w &&& 0xFFF0#16
      | .shr _ | .shl _ => w &&& 0xFF0F#16
      | _ => w

/-- The decoder is the opcode map: a word is the instruction of the row it matches, an unrecognized word matches none,
and no word matches two rows (R76). -/
def Obligations.DecodeAgreesWithOpcodeMap : Prop :=
  (∀ (w : Word) (i : Instr), decode w = some i → ∃ r ∈ opcodeMap, r.mnemonic = i.mnemonic ∧ r.matchesWord w) ∧
  (∀ w : Word, decode w = none → ∀ r ∈ opcodeMap, ¬ r.matchesWord w) ∧
  (∀ (w : Word), ∀ r ∈ opcodeMap, ∀ q ∈ opcodeMap, r.matchesWord w → q.matchesWord w → r = q)

/-- The secondary selectors of groups 8, E and F, and the words of every other group (R77, R78, R79; R74, R80). -/
def Obligations.SecondarySelectors : Prop :=
  ∀ w : Word,
    (fieldG w = 0x8#4 → ((decode w).isSome = true ↔ fieldN w ∈ [0x0#4, 0x1, 0x2, 0x3, 0x4, 0x5, 0x6, 0x7, 0xE])) ∧
    (fieldG w = 0xE#4 → ((decode w).isSome = true ↔ fieldNN w ∈ [0x9E#8, 0xA1])) ∧
    (fieldG w = 0xF#4 → ((decode w).isSome = true ↔
      fieldNN w ∈ [0x07#8, 0x0A, 0x15, 0x18, 0x1E, 0x29, 0x33, 0x55, 0x65])) ∧
    (fieldG w = 0x0#4 → ((decode w).isSome = true ↔ w = 0x00E0#16 ∨ w = 0x00EE#16)) ∧
    (fieldG w ∉ [0x0#4, 0x8, 0xE, 0xF] → (decode w).isSome = true)

/-- The bits in no operand field select nothing, and no other instruction has such bits (R73). -/
def Obligations.IgnoredBitsSelectNothing : Prop :=
  (∀ (x y : RegIdx),
    decode (wordGXYN 0x8 x y 0x6) = some (.shr x) ∧ decode (wordGXYN 0x8 x y 0xE) = some (.shl x)) ∧
  (∀ (x y : RegIdx) (n : BitVec 4),
    decode (wordGXYN 0x5 x y n) = some (.seReg x y) ∧ decode (wordGXYN 0x9 x y n) = some (.sneReg x y)) ∧
  (∀ (w w' : Word) (i : Instr), decode w = some i → decode w' = some i →
    (∃ x, i = .shr x ∨ i = .shl x) ∨ (∃ x y, i = .seReg x y ∨ i = .sneReg x y) ∨ w = w')

/-- STRICT_SKIP_NIBBLE: with true, 5XYN and 9XYN with N ≠ 0 are unrecognized and every other word decodes as before;
with false, the value of this hardware, N is not looked at (R75). -/
def Obligations.StrictSkipNibbleReading : Prop :=
  Config.params.strictSkipNibble = false ∧
  (∀ (x y : RegIdx) (n : BitVec 4),
    decodeWith false (wordGXYN 0x5 x y n) = some (.seReg x y) ∧
    decodeWith false (wordGXYN 0x9 x y n) = some (.sneReg x y)) ∧
  (∀ w : Word, decodeWith true w =
    if (fieldG w = 0x5#4 ∨ fieldG w = 0x9#4) ∧ fieldN w ≠ 0x0#4 then none else decodeWith false w)

/-- One word of each family, written out from the encoding its rule gives (a sanity statement). -/
def Obligations.SampleWordsDecode : Prop :=
  decode 0x1228#16 = some (.jp 0x228) ∧ decode 0x2300#16 = some (.call 0x300) ∧
  decode 0x3A42#16 = some (.seImm 0xA 0x42) ∧ decode 0x8014#16 = some (.addReg 0 1) ∧
  decode 0x8127#16 = some (.subn 1 2) ∧ decode 0xD012#16 = some (.drw 0 1 2) ∧
  decode 0x00E0#16 = some .cls ∧ decode 0xE3A1#16 = some (.sknp 3) ∧
  decode 0xF10A#16 = some (.ldVxK 1) ∧ decode 0xF255#16 = some (.ldMemVx 2) ∧ decode 0x0123#16 = none

/-! ### The cycle (40_cycle.md) and faults (60_exceptions.md) -/

/-- When the word at PC decodes to an instruction, a step is that instruction run after the advance (R90, R92). -/
def Obligations.StepRunsTheDecodedInstruction : Prop :=
  ∀ (s : State) (i : Instr), s.isRunning → s.pc.toNat ≤ 4094 → decode s.fetchWord = some i →
    i.wellFormed = true ∧ step s = exec i { s with pc := s.pc + 2 }

/-- Fetch: out of bounds from PC = 4095 on, with nothing changed but the status; below that, the big-endian word (R91). -/
def Obligations.FetchBoundsAndByteOrder : Prop :=
  ∀ s : State, s.isRunning →
    (4095 ≤ s.pc.toNat → step s = .next { s with status := .faulted .fetchOutOfBounds s.pc s.pc.toNat }) ∧
    (s.pc.toNat ≤ 4094 →
      s.fetchWord.toNat = (s.readByte s.pc.toNat).toNat * 256 + (s.readByte (s.pc.toNat + 1)).toNat ∧
      ∀ t a n, step s = .next t → t.status ≠ .faulted .fetchOutOfBounds a n)

/-- An unrecognized word raises ILLEGAL_OPCODE with the word, and the advance is undone (R80, R94, R96). -/
def Obligations.UnrecognizedWordFaults : Prop :=
  ∀ s : State, s.isRunning → s.pc.toNat ≤ 4094 → decode s.fetchWord = none →
    step s = .next { s with status := .faulted .illegalOpcode s.pc s.fetchWord.toNat }

/-- SYS_POLICY: a group-0 word other than 00E0 and 00EE faults under Fault, the value of this hardware; under Nop its
only effect is the advance (R81). -/
def Obligations.SysPolicyReading : Prop :=
  Config.params.sysPolicy = .fault ∧
  ∀ (s : State) (p : Config.Params), s.isRunning → s.pc.toNat ≤ 4094 →
    fieldG s.fetchWord = 0x0#4 → s.fetchWord ≠ 0x00E0#16 → s.fetchWord ≠ 0x00EE#16 →
    (p.sysPolicy = .fault →
      stepWith p s = .next { s with status := .faulted .illegalOpcode s.pc s.fetchWord.toNat }) ∧
    (p.sysPolicy = .nop → stepWith p s = .next { s with pc := s.pc + 2 })

/-- A faulting Step changes the status and nothing else; it records the PC before the Step and returns the fault
(R96; 60_exceptions.md R232). -/
def Obligations.FaultsArePrecise : Prop :=
  ∀ (s t : State) (k : FaultKind) (a : Word) (n : Nat), s.isRunning → step s = .next t → t.status = .faulted k a n →
    t = { s with status := .faulted k s.pc n } ∧ s.hostStep = (.fault k n, t)

/-- In FAULTED every Step returns the recorded fault and changes nothing, and only Reset leaves it (R97, R233). That `step`
answers the stop `.fault` there, and no next state, is the model's reading (DEDUCED, log entry 1). -/
def Obligations.FaultedIsSticky : Prop :=
  ∀ (s : State) (k : FaultKind) (a : Word) (n : Nat), s.status = .faulted k a n →
    step s = .fault (.faulted k n) ∧ s.hostStep = (.fault k n, s) ∧
    (∀ op, (∀ start, op ≠ .reset start) → (hostOp op s).2.status = .faulted k a n) ∧
    ∀ start, (hostOp (.reset start) s).2.isRunning

/-- A Step from RUNNING takes a fault exactly in the cases of the fault table, with the values it records, in the order
of priority (60_exceptions.md R231, R234; 20_memory.md R54). -/
def Obligations.StepFaultsExactlyWhen : Prop :=
  ∀ (s : State) (k : FaultKind) (n : Nat), s.isRunning →
    ((∃ t, step s = .next t ∧ t.status = .faulted k s.pc n) ↔
      (4095 ≤ s.pc.toNat ∧ k = .fetchOutOfBounds ∧ n = s.pc.toNat) ∨
      (s.pc.toNat ≤ 4094 ∧ decode s.fetchWord = none ∧ k = .illegalOpcode ∧ n = s.fetchWord.toNat) ∨
      (s.pc.toNat ≤ 4094 ∧ decode s.fetchWord = some .ret ∧ s.sp = 0 ∧ k = .stackUnderflow ∧ n = 0) ∨
      (s.pc.toNat ≤ 4094 ∧ (∃ nnn, decode s.fetchWord = some (.call nnn)) ∧ 16 ≤ s.sp ∧ k = .stackOverflow ∧ n = 16) ∨
      (s.pc.toNat ≤ 4094 ∧ (∃ i, decode s.fetchWord = some i ∧ ¬ s.rangeFits (accessLength i)) ∧
        k = .memOutOfBounds ∧ n = max s.i.toNat 4096))

/-- A Step from RUNNING never stops the machine, and where it takes no fault it returns Completed, but StillWaiting for
FX0A with no key down. It changes DT only by FX15, ST only by FX18, and the keys never (R98). -/
def Obligations.StepOutcomeAndTimers : Prop :=
  ∀ s : State, s.isRunning → ∃ t, step s = .next t ∧ s.hostStep.2 = t ∧
    (t.isRunning → ((∃ x, decode s.fetchWord = some (.ldVxK x)) ∧ ∀ k < 16, s.keyDown k = false) →
      s.hostStep.1 = .stillWaiting) ∧
    (t.isRunning → ¬ ((∃ x, decode s.fetchWord = some (.ldVxK x)) ∧ ∀ k < 16, s.keyDown k = false) →
      s.hostStep.1 = .completed) ∧
    (t.dt ≠ s.dt → ∃ x, decode s.fetchWord = some (.ldDtVx x) ∧ t.dt = s.getV x) ∧
    (t.st ≠ s.st → ∃ x, decode s.fetchWord = some (.ldStVx x) ∧ t.st = s.getV x) ∧
    t.key = s.key

/-! ### Whole-machine rules (10_state.md) -/

/-- The invariant holds after Reset at any start address (10_state.md R28; 70_reset_and_hazards.md R270). -/
def Obligations.ResetMeetsTheInvariant : Prop :=
  (∀ start, (State.resetAt start).Inv) ∧ State.reset.Inv

/-- Every step keeps the invariant: canonical memory, SP in 0..16, stack slots at most 0x1000, a legal status. -/
def Obligations.StepKeepsTheInvariant : Prop :=
  ∀ s t : State, s.Inv → step s = .next t → t.Inv

/-- Every host operation keeps the invariant, so every state a host can reach from Reset meets it (60_exceptions.md R250). -/
def Obligations.HostOperationsKeepTheInvariant : Prop :=
  (∀ (s : State) (op : HostOp), s.Inv → (hostOp op s).2.Inv) ∧ ∀ s : State, s.Reachable → s.Inv

/-- No instruction moves SP out of 0..16, a call at SP = 16 overflows and a return at SP = 0 underflows (10_state.md R28). -/
def Obligations.StackPointerStaysInRange : Prop :=
  (∀ (i : Instr) (s t : State), s.sp ≤ 16 → exec i s = .next t → t.sp ≤ 16) ∧
  (∀ (nnn : Addr) (s : State), s.sp = 16 → ∃ t, exec (.call nnn) s = .next t ∧ faultTaken .stackOverflow 16 s t) ∧
  (∀ s : State, s.sp = 0 → ∃ t, exec .ret s = .next t ∧ faultTaken .stackUnderflow 0 s t)

/-- From a state that meets the invariant, a step that takes no fault leaves PC at most 0x10FE: PC never wraps
(10_state.md R25). -/
def Obligations.CompletedStepBoundsPc : Prop :=
  ∀ s t : State, s.Inv → step s = .next t → t.isRunning → t.pc.toNat ≤ 0x10FE

/-- Only ANNN, FX1E and FX29 change I; only 2NNN and 00EE change SP, and only 2NNN a stack slot (10_state.md R26, R27). -/
def Obligations.WritersOfIndexAndStack : Prop :=
  ∀ (i : Instr) (s t : State), exec i s = .next t →
    (t.i ≠ s.i → (∃ nnn, i = .ldI nnn) ∨ ∃ x, i = .addIVx x ∨ i = .ldFVx x) ∧
    (t.sp ≠ s.sp → i = .ret ∨ ∃ nnn, i = .call nnn) ∧
    (t.stack ≠ s.stack → ∃ nnn, i = .call nnn)

/-- Only 00E0 and DXYN change a pixel; only FX33 and FX55 change a byte of memory; only 8XY4, 8XY5, 8XY6, 8XY7, 8XYE and
DXYN write VF without naming it as destination (10_state.md R21, R32; 20_memory.md R50; 42_alu.md R130). -/
def Obligations.WritersOfDisplayMemoryAndFlag : Prop :=
  ∀ (i : Instr) (s t : State), exec i s = .next t →
    (t.pix ≠ s.pix → i = .cls ∨ ∃ x y n, i = .drw x y n) ∧
    ((∃ a, t.readByte a ≠ s.readByte a) → ∃ x, i = .ldBVx x ∨ i = .ldMemVx x) ∧
    (t.getV VF ≠ s.getV VF →
      (∃ x y, i = .addReg x y ∨ i = .sub x y ∨ i = .subn x y) ∨ (∃ x, i = .shr x ∨ i = .shl x) ∨
      (∃ x y n, i = .drw x y n) ∨
      (∃ nn, i = .ldImm VF nn ∨ i = .addImm VF nn ∨ i = .rnd VF nn) ∨
      (∃ y, i = .ldReg VF y ∨ i = .or VF y ∨ i = .and VF y ∨ i = .xor VF y) ∨
      i = .ldVxDt VF ∨ i = .ldVxK VF ∨ i = .ldVxMem VF)

/-- No instruction but CXNN is affected by the random source: run with another draw counter it does the same
(10_state.md R31; the counter is the model's own, log entry 5). -/
def Obligations.RandomSourceAffectsOnlyRnd : Prop :=
  ∀ (i : Instr) (s t : State) (d : Nat), (∀ x nn, i ≠ .rnd x nn) → exec i s = .next t →
    t.draws = s.draws ∧ exec i { s with draws := d } = .next { t with draws := d }

/-! ### Control flow (41_control_flow.md) -/

/-- JP: PC becomes NNN, nothing else changes (R112). -/
def Obligations.JumpSetsPc : Prop :=
  ∀ nnn : Addr, decode (wordGNNN 0x1 nnn) = some (.jp nnn) ∧
    ∀ s : State, ∃ t, exec (.jp nnn) s = .next t ∧ t.pc.toNat = nnn.toNat ∧ unchangedBut [.pc] s t

/-- JP V0: PC becomes NNN + V0, not wrapped to 12 bits (R118). -/
def Obligations.JumpV0AddsV0 : Prop :=
  ∀ nnn : Addr, decode (wordGNNN 0xB nnn) = some (.jpV0 nnn) ∧
    ∀ s : State, ∃ t, exec (.jpV0 nnn) s = .next t ∧ t.pc.toNat = nnn.toNat + (s.getV 0).toNat ∧
      unchangedBut [.pc] s t

/-- CALL: pushes the PC after the advance and jumps; with 16 slots occupied it overflows and changes nothing (R113).
From 16 on, so that the statement holds in states no run reaches (log entry 8). -/
def Obligations.CallPushesAndJumps : Prop :=
  ∀ nnn : Addr, decode (wordGNNN 0x2 nnn) = some (.call nnn) ∧
    (∀ s : State, s.sp < 16 → ∃ t, exec (.call nnn) s = .next t ∧ t.slot s.sp = s.pc ∧ t.sp = s.sp + 1 ∧
      t.pc.toNat = nnn.toNat ∧ (∀ k < 16, k ≠ s.sp → t.slot k = s.slot k) ∧ unchangedBut [.pc, .stack, .sp] s t) ∧
    (∀ s : State, 16 ≤ s.sp → ∃ t, exec (.call nnn) s = .next t ∧ faultTaken .stackOverflow 16 s t)

/-- RET: pops PC, and the slot keeps its value; with no slot occupied it underflows and changes nothing (R111). -/
def Obligations.ReturnPopsPc : Prop :=
  decode 0x00EE#16 = some .ret ∧
  (∀ s : State, 0 < s.sp → s.sp ≤ 16 → ∃ t, exec .ret s = .next t ∧ t.sp = s.sp - 1 ∧ t.pc = s.slot (s.sp - 1) ∧
    unchangedBut [.pc, .sp] s t) ∧
  (∀ s : State, s.sp = 0 → ∃ t, exec .ret s = .next t ∧ faultTaken .stackUnderflow 0 s t)

/-- N calls followed by N returns resume after the calls, last call first, and give SP back; one return more underflows
from an empty stack, and one call more overflows a full one. Between any two of them everything but the stack and SP may
change (R119). -/
def Obligations.CallsAndReturnsAreLifo : Prop :=
  ∀ (calls : List (State × Addr)) (rets : List State) (s : State),
    s.sp + calls.length ≤ 16 → rets.length = calls.length →
    ∃ t, callAll calls s = .next t ∧ t.sp = s.sp + calls.length ∧
      (returnAll rets t).1 = (calls.map fun c => c.1.pc + 2).reverse ∧
      (returnAll rets t).2.sp = s.sp ∧
      (s.sp = 0 → ∀ r : State, ∃ u, exec .ret (r.withStackOf (returnAll rets t).2) = .next u ∧
        faultTaken .stackUnderflow 0 (r.withStackOf (returnAll rets t).2) u) ∧
      (t.sp = 16 → ∀ (r : State) (nnn : Addr), ∃ u, exec (.call nnn) (r.withStackOf t) = .next u ∧
        faultTaken .stackOverflow 16 (r.withStackOf t) u)

/-- The four comparing skips: PC advances by 2 once more exactly where the condition holds, nothing else changes, and
none faults; the low nibble of 5XYN and 9XYN is not looked at, but under STRICT_SKIP_NIBBLE = true a word with another
nibble than 0 faults (R114 to R117). -/
def Obligations.ComparingSkips : Prop :=
  (∀ (x : RegIdx) (nn : Byte), decode (wordGXNN 0x3 x nn) = some (.seImm x nn) ∧ ∀ s : State,
    ∃ t, exec (.seImm x nn) s = .next t ∧ t.pc = (if s.getV x = nn then s.pc + 2 else s.pc) ∧ unchangedBut [.pc] s t) ∧
  (∀ (x : RegIdx) (nn : Byte), decode (wordGXNN 0x4 x nn) = some (.sneImm x nn) ∧ ∀ s : State,
    ∃ t, exec (.sneImm x nn) s = .next t ∧ t.pc = (if s.getV x = nn then s.pc else s.pc + 2) ∧ unchangedBut [.pc] s t) ∧
  (∀ (x y : RegIdx) (n : BitVec 4), decode (wordGXYN 0x5 x y n) = some (.seReg x y) ∧ ∀ s : State,
    ∃ t, exec (.seReg x y) s = .next t ∧ t.pc = (if s.getV x = s.getV y then s.pc + 2 else s.pc) ∧
      unchangedBut [.pc] s t) ∧
  (∀ (x y : RegIdx) (n : BitVec 4), decode (wordGXYN 0x9 x y n) = some (.sneReg x y) ∧ ∀ s : State,
    ∃ t, exec (.sneReg x y) s = .next t ∧ t.pc = (if s.getV x = s.getV y then s.pc else s.pc + 2) ∧
      unchangedBut [.pc] s t) ∧
  (∀ (x y : RegIdx) (n : BitVec 4) (p : Config.Params) (s : State), n ≠ 0x0#4 → p.strictSkipNibble = true →
    s.isRunning → s.pc.toNat ≤ 4094 → s.fetchWord = wordGXYN 0x5 x y n ∨ s.fetchWord = wordGXYN 0x9 x y n →
    stepWith p s = .next { s with status := .faulted .illegalOpcode s.pc s.fetchWord.toNat })

/-- A JP to its own address is the end of a run: the step leaves the state unchanged (70_reset_and_hazards.md R278). -/
def Obligations.SelfJumpLeavesTheState : Prop :=
  ∀ s : State, s.runEnded → step s = .next s

/-! ### Registers and ALU (42_alu.md) -/

/-- LD Vx, byte and LD Vx, Vy: V[X] takes the value, and no other register changes (R131, R133). -/
def Obligations.LoadRegisterResults : Prop :=
  (∀ (x : RegIdx) (nn : Byte), decode (wordGXNN 0x6 x nn) = some (.ldImm x nn) ∧ ∀ s : State,
    ∃ t, exec (.ldImm x nn) s = .next t ∧ t.getV x = nn ∧ onlyRegs [x] s t) ∧
  (∀ (x y : RegIdx), decode (wordGXYN 0x8 x y 0x0) = some (.ldReg x y) ∧ ∀ s : State,
    ∃ t, exec (.ldReg x y) s = .next t ∧ t.getV x = s.getV y ∧ onlyRegs [x] s t)

/-- ADD Vx, byte wraps modulo 256 and sets no flag (R132). -/
def Obligations.AddImmediateWraps : Prop :=
  ∀ (x : RegIdx) (nn : Byte), decode (wordGXNN 0x7 x nn) = some (.addImm x nn) ∧ ∀ s : State,
    ∃ t, exec (.addImm x nn) s = .next t ∧ (t.getV x).toNat = ((s.getV x).toNat + nn.toNat) % 256 ∧ onlyRegs [x] s t

/-- OR, AND and XOR, bit by bit; VF is not written unless it is the destination (R134, R135, R136). -/
def Obligations.LogicResults : Prop :=
  ∀ (x y : RegIdx), decode (wordGXYN 0x8 x y 0x1) = some (.or x y) ∧ decode (wordGXYN 0x8 x y 0x2) = some (.and x y) ∧
    decode (wordGXYN 0x8 x y 0x3) = some (.xor x y) ∧ ∀ s : State,
    (∃ t, exec (.or x y) s = .next t ∧ onlyRegs [x] s t ∧
      ∀ k < 8, (t.getV x).getLsbD k = ((s.getV x).getLsbD k || (s.getV y).getLsbD k)) ∧
    (∃ t, exec (.and x y) s = .next t ∧ onlyRegs [x] s t ∧
      ∀ k < 8, (t.getV x).getLsbD k = ((s.getV x).getLsbD k && (s.getV y).getLsbD k)) ∧
    (∃ t, exec (.xor x y) s = .next t ∧ onlyRegs [x] s t ∧
      ∀ k < 8, (t.getV x).getLsbD k = ((s.getV x).getLsbD k ^^ (s.getV y).getLsbD k))

/-- ADD Vx, Vy: the sum modulo 256 in V[X], then the carry in VF, which wins where X is VF (R137, R130). -/
def Obligations.AddRegisterSetsCarry : Prop :=
  ∀ (x y : RegIdx), decode (wordGXYN 0x8 x y 0x4) = some (.addReg x y) ∧ ∀ s : State,
    ∃ t, exec (.addReg x y) s = .next t ∧ onlyRegs [x, VF] s t ∧
      (x ≠ VF → (t.getV x).toNat = ((s.getV x).toNat + (s.getV y).toNat) % 256) ∧
      (t.getV VF).toNat = (if (s.getV x).toNat + (s.getV y).toNat > 255 then 1 else 0)

/-- SUB and SUBN: the difference modulo 256 in V[X], then VF = 1 exactly where the minuend is strictly greater
(R138, R140, R130). -/
def Obligations.SubtractionsSetGreaterFlag : Prop :=
  ∀ (x y : RegIdx), decode (wordGXYN 0x8 x y 0x5) = some (.sub x y) ∧
    decode (wordGXYN 0x8 x y 0x7) = some (.subn x y) ∧ ∀ s : State,
    (∃ t, exec (.sub x y) s = .next t ∧ onlyRegs [x, VF] s t ∧
      (x ≠ VF → (t.getV x).toNat = ((s.getV x).toNat + 256 - (s.getV y).toNat) % 256) ∧
      (t.getV VF).toNat = (if (s.getV x).toNat > (s.getV y).toNat then 1 else 0)) ∧
    (∃ t, exec (.subn x y) s = .next t ∧ onlyRegs [x, VF] s t ∧
      (x ≠ VF → (t.getV x).toNat = ((s.getV y).toNat + 256 - (s.getV x).toNat) % 256) ∧
      (t.getV VF).toNat = (if (s.getV y).toNat > (s.getV x).toNat then 1 else 0))

/-- SHR and SHL: V[X] shifted by one, then VF = the bit shifted out; Y is ignored (R139, R141, R130). -/
def Obligations.ShiftsSetBitShiftedOut : Prop :=
  ∀ (x y : RegIdx), decode (wordGXYN 0x8 x y 0x6) = some (.shr x) ∧
    decode (wordGXYN 0x8 x y 0xE) = some (.shl x) ∧ ∀ s : State,
    (∃ t, exec (.shr x) s = .next t ∧ onlyRegs [x, VF] s t ∧
      (x ≠ VF → (t.getV x).toNat = (s.getV x).toNat / 2) ∧ (t.getV VF).toNat = (s.getV x).toNat % 2) ∧
    (∃ t, exec (.shl x) s = .next t ∧ onlyRegs [x, VF] s t ∧
      (x ≠ VF → (t.getV x).toNat = (s.getV x).toNat * 2 % 256) ∧ (t.getV VF).toNat = (s.getV x).toNat / 128)

/-- LD I, ADD I and LD F: the new value of I, exact or modulo 65536, with no flag and no fault (R142, R144, R145). -/
def Obligations.IndexRegisterResults : Prop :=
  (∀ nnn : Addr, decode (wordGNNN 0xA nnn) = some (.ldI nnn) ∧ ∀ s : State,
    ∃ t, exec (.ldI nnn) s = .next t ∧ t.i.toNat = nnn.toNat ∧ unchangedBut [.i] s t) ∧
  (∀ x : RegIdx, decode (wordGXNN 0xF x 0x1E) = some (.addIVx x) ∧ ∀ s : State,
    ∃ t, exec (.addIVx x) s = .next t ∧ t.i.toNat = (s.i.toNat + (s.getV x).toNat) % 65536 ∧ unchangedBut [.i] s t) ∧
  (∀ x : RegIdx, decode (wordGXNN 0xF x 0x29) = some (.ldFVx x) ∧ ∀ s : State,
    ∃ t, exec (.ldFVx x) s = .next t ∧ t.i.toNat = (s.getV x).toNat * 5 ∧ unchangedBut [.i] s t)

/-- RND: V[X] is a fresh free byte AND NN, so it has no bit that NN lacks; one draw is counted (R143; the counter and the
free byte are the model's form of the draw, log entry 5). -/
def Obligations.RandomByteIsMasked : Prop :=
  ∀ (x : RegIdx) (nn : Byte), decode (wordGXNN 0xC x nn) = some (.rnd x nn) ∧ ∀ s : State,
    ∃ t, exec (.rnd x nn) s = .next t ∧ t.draws = s.draws + 1 ∧
      (∀ k < 8, (t.getV x).getLsbD k = ((Config.rand s.draws).getLsbD k && nn.getLsbD k)) ∧
      (t.getV x).toNat ≤ nn.toNat ∧
      unchangedBut [.v, .draws] s t ∧ ∀ r, r ≠ x → t.getV r = s.getV r

/-! ### Display (43_display.md) -/

/-- CLS: every pixel 0, VF and everything else unchanged (R171). -/
def Obligations.ClearDisplay : Prop :=
  decode 0x00E0#16 = some .cls ∧ ∀ s : State, ∃ t, exec .cls s = .next t ∧ unchangedBut [.pix] s t ∧
    ∀ x < 64, ∀ y < 32, pixelAt t.pix x y = false

/-- DRW: each pixel on screen a set sprite bit covers is flipped and no other; VF = 1 exactly where one of them was lit.
On this hardware SPRITE_EDGE = Clip: pixels past the edge are skipped. Under Wrap each target is reduced per pixel. A sprite
whose bytes reach 4096 faults and changes nothing (R172, R173, R174). -/
def Obligations.DrawFlipsCoveredPixels : Prop :=
  Config.params.spriteEdge = .clip ∧ ∀ (x y : RegIdx) (n : Nat), n < 16 →
    decode (wordGXYN 0xD x y (BitVec.ofNat 4 n)) = some (.drw x y n) ∧
    (∀ s : State, s.rangeFits n →
      (∃ t, exec (.drw x y n) s = .next t ∧ spriteDrawn (s.spriteCovers x y n) s t) ∧
      ∃ t, execDrwWith .wrap x y n s = .next t ∧ spriteDrawn (s.spriteCoversWrapped x y n) s t) ∧
    (∀ s : State, ¬ s.rangeFits n →
      (∃ t, exec (.drw x y n) s = .next t ∧ faultTaken .memOutOfBounds (max s.i.toNat 4096) s t) ∧
      ∃ t, execDrwWith .wrap x y n s = .next t ∧ faultTaken .memOutOfBounds (max s.i.toNat 4096) s t)

/-- The XOR properties (R175). (a) CLS and then a sprite of zeros leaves every pixel 0 and VF = 0. (c) The first draw sets
VF exactly where a covered pixel on screen was 1. (b) A second draw of the same sprite at the same origin restores every
pixel, and (d) sets VF exactly where such a pixel was 0 before the first. Between the two operations everything but the
pixels may change, so long as the second draws the same bytes at the same origin: it may name other registers and another
I. -/
def Obligations.DrawingTwiceRestores : Prop :=
  (∀ (x y : RegIdx) (n : Nat) (s t t' : State), exec .cls s = .next t → t'.pix = t.pix → t'.rangeFits n →
    (∀ r < n, t'.readByte (t'.i.toNat + r) = 0x00#8) →
    ∃ u, exec (.drw x y n) t' = .next u ∧ (∀ px < 64, ∀ py < 32, pixelAt u.pix px py = false) ∧ u.getV VF = 0x00#8) ∧
  (∀ (x y : RegIdx) (n : Nat) (s : State), s.rangeFits n → ∃ t, exec (.drw x y n) s = .next t ∧
    (t.getV VF = 0x01#8 ↔ ∃ px < 64, ∃ py < 32, s.spriteCovers x y n px py ∧ pixelAt s.pix px py = true) ∧
    ∀ (x' y' : RegIdx) (t' : State), t'.pix = t.pix → t'.originX x' = s.originX x → t'.originY y' = s.originY y →
      t'.rangeFits n → (∀ r < n, t'.readByte (t'.i.toNat + r) = s.readByte (s.i.toNat + r)) →
      ∃ u, exec (.drw x' y' n) t' = .next u ∧
        (∀ px < 64, ∀ py < 32, pixelAt u.pix px py = pixelAt s.pix px py) ∧
        (u.getV VF = 0x01#8 ↔ ∃ px < 64, ∃ py < 32, s.spriteCovers x y n px py ∧ pixelAt s.pix px py = false))

/-! ### Keypad and timers (44_keypad_timers.md) -/

/-- SKP and SKNP: the level of key V[X], an index of 16 or more being up; exactly one of the two skips (R191, R192). -/
def Obligations.KeySkips : Prop :=
  ∀ x : RegIdx, decode (wordGXNN 0xE x 0x9E) = some (.skp x) ∧ decode (wordGXNN 0xE x 0xA1) = some (.sknp x) ∧
    ∀ s : State, ∃ t u, exec (.skp x) s = .next t ∧ exec (.sknp x) s = .next u ∧
      unchangedBut [.pc] s t ∧ unchangedBut [.pc] s u ∧
      (∀ h : (s.getV x).toNat < 16, s.key[(s.getV x).toNat] = true → t.pc = s.pc + 2 ∧ u.pc = s.pc) ∧
      (∀ h : (s.getV x).toNat < 16, s.key[(s.getV x).toNat] = false → t.pc = s.pc ∧ u.pc = s.pc + 2) ∧
      (16 ≤ (s.getV x).toNat → t.pc = s.pc ∧ u.pc = s.pc + 2)

/-- FX0A: the lowest key down goes to V[X]; with none down PC goes back to the instruction, so that the whole Step
changes nothing (R194, R197). -/
def Obligations.KeyWaitTakesLowestKey : Prop :=
  ∀ x : RegIdx, decode (wordGXNN 0xF x 0x0A) = some (.ldVxK x) ∧
    (∀ (s : State) (k : Fin 16), s.key[k] = true → (∀ j : Fin 16, j < k → s.key[j] = false) →
      ∃ t, exec (.ldVxK x) s = .next t ∧ (t.getV x).toNat = k ∧ onlyRegs [x] s t) ∧
    (∀ s : State, (∀ j : Fin 16, s.key[j] = false) →
      ∃ t, exec (.ldVxK x) s = .next t ∧ t.pc = s.pc - 2 ∧ unchangedBut [.pc] s t) ∧
    (∀ s : State, s.isRunning → s.pc.toNat ≤ 4094 → decode s.fetchWord = some (.ldVxK x) →
      (∀ j : Fin 16, s.key[j] = false) → step s = .next s ∧ s.hostStep = (.stillWaiting, s))

/-- FX07, FX15 and FX18 move a byte between V[X] and DT or ST and change nothing else (R193, R195, R196). -/
def Obligations.TimerMoves : Prop :=
  ∀ x : RegIdx, decode (wordGXNN 0xF x 0x07) = some (.ldVxDt x) ∧ decode (wordGXNN 0xF x 0x15) = some (.ldDtVx x) ∧
    decode (wordGXNN 0xF x 0x18) = some (.ldStVx x) ∧ ∀ s : State,
    (∃ t, exec (.ldVxDt x) s = .next t ∧ t.getV x = s.dt ∧ onlyRegs [x] s t) ∧
    (∃ t, exec (.ldDtVx x) s = .next t ∧ t.dt = s.getV x ∧ unchangedBut [.dt] s t) ∧
    (∃ t, exec (.ldStVx x) s = .next t ∧ t.st = s.getV x ∧ unchangedBut [.st] s t)

/-! ### Memory transfer (45_memory_transfer.md) -/

/-- FX33: the three decimal digits at I, I+1, I+2, every other byte and I unchanged; past 4095 it faults and stores
nothing (R210). -/
def Obligations.BcdStoresDigits : Prop :=
  ∀ x : RegIdx, decode (wordGXNN 0xF x 0x33) = some (.ldBVx x) ∧
    (∀ s : State, s.mem.wf → s.i.toNat + 2 < 4096 → ∃ t, exec (.ldBVx x) s = .next t ∧
      (t.readByte s.i.toNat).toNat = (s.getV x).toNat / 100 ∧
      (t.readByte (s.i.toNat + 1)).toNat = (s.getV x).toNat / 10 % 10 ∧
      (t.readByte (s.i.toNat + 2)).toNat = (s.getV x).toNat % 10 ∧
      (∀ a, a < s.i.toNat ∨ s.i.toNat + 3 ≤ a → t.readByte a = s.readByte a) ∧ unchangedBut [.mem] s t) ∧
    (∀ s : State, 4096 ≤ s.i.toNat + 2 → ∃ t, exec (.ldBVx x) s = .next t ∧
      faultTaken .memOutOfBounds (max s.i.toNat 4096) s t)

/-- FX55: V0..VX at I, every other byte and I unchanged; past 4095 it faults and stores nothing (R211). -/
def Obligations.StoreRegistersAtI : Prop :=
  ∀ x : RegIdx, decode (wordGXNN 0xF x 0x55) = some (.ldMemVx x) ∧
    (∀ s : State, s.mem.wf → s.i.toNat + x.val < 4096 → ∃ t, exec (.ldMemVx x) s = .next t ∧
      (∀ k : RegIdx, k ≤ x → t.readByte (s.i.toNat + k.val) = s.getV k) ∧
      (∀ a, a < s.i.toNat ∨ s.i.toNat + x.val + 1 ≤ a → t.readByte a = s.readByte a) ∧ unchangedBut [.mem] s t) ∧
    (∀ s : State, 4096 ≤ s.i.toNat + x.val → ∃ t, exec (.ldMemVx x) s = .next t ∧
      faultTaken .memOutOfBounds (max s.i.toNat 4096) s t)

/-- FX65: V0..VX from memory at I, the registers above X, memory and I unchanged; past 4095 it faults (R212). -/
def Obligations.LoadRegistersFromI : Prop :=
  ∀ x : RegIdx, decode (wordGXNN 0xF x 0x65) = some (.ldVxMem x) ∧
    (∀ s : State, s.i.toNat + x.val < 4096 → ∃ t, exec (.ldVxMem x) s = .next t ∧
      (∀ k : RegIdx, k ≤ x → t.getV k = s.readByte (s.i.toNat + k.val)) ∧
      (∀ k : RegIdx, x < k → t.getV k = s.getV k) ∧ unchangedBut [.v] s t) ∧
    (∀ s : State, 4096 ≤ s.i.toNat + x.val → ∃ t, exec (.ldVxMem x) s = .next t ∧
      faultTaken .memOutOfBounds (max s.i.toNat 4096) s t)

/-- FX55 and then FX65 with the same X and I, with no memory write between, gives V0..VX and I back, whatever happened to
the registers between (R213). -/
def Obligations.StoreThenLoadRestores : Prop :=
  ∀ (x : RegIdx) (s t t' : State), s.mem.wf → s.i.toNat + x.val < 4096 → exec (.ldMemVx x) s = .next t →
    t'.i = s.i → (∀ a, t'.readByte a = t.readByte a) →
    ∃ u, exec (.ldVxMem x) t' = .next u ∧ (∀ k : RegIdx, k ≤ x → u.getV k = s.getV k) ∧ u.i = s.i

/-- Bytes a Step or a Load stored are what the next fetch of their addresses reads, high byte first (20_memory.md R51,
R52, R62; 70_reset_and_hazards.md R276). -/
def Obligations.StoredBytesAreFetched : Prop :=
  (∀ (x : RegIdx) (s t : State) (k : Fin 15), s.mem.wf → s.i.toNat + x.val < 4096 → exec (.ldMemVx x) s = .next t →
    k.val + 1 ≤ x.val → t.pc.toNat = s.i.toNat + k.val →
    t.fetchWord.toNat = (s.getV k.castSucc).toNat * 256 + (s.getV k.succ).toNat) ∧
  (∀ (x : RegIdx) (s t : State), s.mem.wf → s.i.toNat + 2 < 4096 → exec (.ldBVx x) s = .next t →
    (t.pc = s.i → t.fetchWord.toNat = (s.getV x).toNat / 100 * 256 + (s.getV x).toNat / 10 % 10) ∧
    (t.pc = s.i + 1 → t.fetchWord.toNat = (s.getV x).toNat / 10 % 10 * 256 + (s.getV x).toNat % 10)) ∧
  (∀ (s : State) (base : Nat) (bytes : List Byte) (k : Nat) (h : k + 1 < bytes.length), s.mem.wf →
    base + bytes.length ≤ 4096 → s.pc.toNat = base + k →
    (s.hostLoad base bytes).2.fetchWord.toNat = bytes[k].toNat * 256 + bytes[k + 1].toNat)

/-! ### Host operations (60_exceptions.md, 70_reset_and_hazards.md) -/

/-- Tick decrements DT and ST each by 1 where above 0 and changes nothing else; n Ticks take n, never below 0
(R242, R243). -/
def Obligations.TicksCountDown : Prop :=
  ∀ (s : State) (n : Nat),
    (s.hostTick.dt.toNat = s.dt.toNat - 1 ∧ s.hostTick.st.toNat = s.st.toNat - 1 ∧
      unchangedBut [.dt, .st] s s.hostTick ∧ hostOp .tick s = (.done, s.hostTick)) ∧
    (s.runOps (List.replicate n .tick)).dt.toNat = s.dt.toNat - n ∧
    (s.runOps (List.replicate n .tick)).st.toNat = s.st.toNat - n

/-- SetKey writes the one key for an index in 0..15 and does nothing for any other integer (R244). -/
def Obligations.SetKeyWritesOneKey : Prop :=
  ∀ (s : State) (index : Int) (pressed : Bool),
    (0 ≤ index → index ≤ 15 → ∀ k : Fin 16,
      (hostOp (.setKey index pressed) s).2.key[k] = if (k.val : Int) = index then pressed else s.key[k]) ∧
    unchangedBut [.key] s (hostOp (.setKey index pressed) s).2 ∧
    (index < 0 ∨ 15 < index → (hostOp (.setKey index pressed) s).2 = s)

/-- Load copies the bytes, and changes nothing else, where they fit; where they do not it answers LOAD_TOO_LARGE and
changes nothing (R274, R275, R239). -/
def Obligations.LoadCopiesOrRefuses : Prop :=
  ∀ (s : State) (base : Nat) (bytes : List Byte),
    (base + bytes.length ≤ 4096 → (hostOp (.load base bytes) s).1 = .ok ∧
      (s.mem.wf → ∀ (k : Nat) (h : k < bytes.length), (hostOp (.load base bytes) s).2.readByte (base + k) = bytes[k]) ∧
      (∀ a, a < base ∨ base + bytes.length ≤ a → (hostOp (.load base bytes) s).2.readByte a = s.readByte a) ∧
      unchangedBut [.mem] s (hostOp (.load base bytes) s).2) ∧
    (4096 < base + bytes.length → hostOp (.load base bytes) s = (.loadTooLarge base bytes.length, s))

/-- Reset: the value of every component, FONT and zeros in memory, whatever the state before; its result depends on
`start` alone (R270, R271; the draw counter, the model's own, goes on: log entry 5). -/
def Obligations.ResetLeavesTheResetState : Prop :=
  ∀ (s : State) (start : Word), ∃ t, hostOp (.reset start) s = (.done, t) ∧
    (∀ a < 80, t.readByte a = Config.font a) ∧ (∀ a, 80 ≤ a → a < 4096 → t.readByte a = 0x00#8) ∧
    (∀ r, t.getV r = 0x00#8) ∧ t.i = 0x0000#16 ∧ (∀ k : Fin 16, t.stack[k] = 0x0000#16) ∧ t.sp = 0 ∧
    t.dt = 0x00#8 ∧ t.st = 0x00#8 ∧ (∀ k : Fin 16, t.key[k] = false) ∧
    (∀ x < 64, ∀ y < 32, pixelAt t.pix x y = false) ∧ t.pc = start ∧ t.isRunning ∧
    ∀ s' : State, (hostOp (.reset start) s').2.record = t.record

/-- The reads answer the display, ST and the whole record, and change nothing (R245, R246, R247). -/
def Obligations.ReadsChangeNothing : Prop :=
  ∀ s : State, hostOp .readDisplay s = (.display s.pix, s) ∧ hostOp .readSound s = (.sound s.st, s) ∧
    hostOp .readState s = (.stateRecord s.record, s) ∧ (s.toneOn = true ↔ s.st.toNat ≠ 0)
end

