-- ==== Sys2Proof/Laws/Decode.lean ====
section
/-! SUPPORT. The fields of the words the encoder builds (30_encoding.md R71), so that no proof about the decoder takes a
word apart bit by bit. -/

namespace Sys2Proof

/-! ### A word from its four nibbles -/

/-- Every word is its four nibbles. -/
theorem word_eq_nibbles (w : Word) :
    w = fieldG w ++ regField (fieldX w) ++ regField (fieldY w) ++ fieldN w := by
  ext k hk
  rw [← BitVec.getLsbD_eq_getElem, ← BitVec.getLsbD_eq_getElem]
  simp only [fieldG, fieldX, fieldY, fieldN, regField, BitVec.ofFin_toFin, BitVec.getLsbD_append,
    BitVec.getLsbD_extractLsb']
  split
  · next h => simp [h]
  · split
    · next h => simp [h, show 4 + (k - 4) = k by omega]
    · split
      · next h => simp [h, show 8 + (k - 4 - 4) = k by omega]
      · simp [show k - 4 - 4 - 4 < 4 by omega, show 12 + (k - 4 - 4 - 4) = k by omega]

theorem fieldG_GXYN (g : BitVec 4) (x y : RegIdx) (n : BitVec 4) : fieldG (wordGXYN g x y n) = g := by
  ext k hk
  simp only [fieldG, wordGXYN, ← BitVec.getLsbD_eq_getElem, BitVec.getLsbD_extractLsb', BitVec.getLsbD_append]
  simp [hk, show ¬ (12 + k < 4) by omega, show ¬ (12 + k - 4 < 4) by omega, show ¬ (12 + k - 4 - 4 < 4) by omega,
    show 12 + k - 4 - 4 - 4 = k by omega]

theorem fieldX_GXYN (g : BitVec 4) (x y : RegIdx) (n : BitVec 4) : fieldX (wordGXYN g x y n) = x := by
  have h : (wordGXYN g x y n).extractLsb' 8 4 = regField x := by
    ext k hk
    simp only [wordGXYN, ← BitVec.getLsbD_eq_getElem, BitVec.getLsbD_extractLsb', BitVec.getLsbD_append]
    simp [hk, show ¬ (8 + k < 4) by omega, show ¬ (8 + k - 4 < 4) by omega,
      show 8 + k - 4 - 4 = k by omega]
  rw [fieldX, h, regField]

theorem fieldY_GXYN (g : BitVec 4) (x y : RegIdx) (n : BitVec 4) : fieldY (wordGXYN g x y n) = y := by
  have h : (wordGXYN g x y n).extractLsb' 4 4 = regField y := by
    ext k hk
    simp only [wordGXYN, ← BitVec.getLsbD_eq_getElem, BitVec.getLsbD_extractLsb', BitVec.getLsbD_append]
    simp [hk, show ¬ (4 + k < 4) by omega, show 4 + k - 4 = k by omega]
  rw [fieldY, h, regField]

theorem fieldN_GXYN (g : BitVec 4) (x y : RegIdx) (n : BitVec 4) : fieldN (wordGXYN g x y n) = n := by
  ext k hk
  simp only [fieldN, wordGXYN, ← BitVec.getLsbD_eq_getElem, BitVec.getLsbD_extractLsb', BitVec.getLsbD_append]
  simp [hk]

/-! ### A word G X NN -/

theorem fieldG_GXNN (g : BitVec 4) (x : RegIdx) (nn : Byte) : fieldG (wordGXNN g x nn) = g := by
  ext k hk
  simp only [fieldG, wordGXNN, ← BitVec.getLsbD_eq_getElem, BitVec.getLsbD_extractLsb', BitVec.getLsbD_append]
  simp [hk, show ¬ (12 + k < 8) by omega, show ¬ (12 + k - 8 < 4) by omega, show 12 + k - 8 - 4 = k by omega]

theorem fieldX_GXNN (g : BitVec 4) (x : RegIdx) (nn : Byte) : fieldX (wordGXNN g x nn) = x := by
  have h : (wordGXNN g x nn).extractLsb' 8 4 = regField x := by
    ext k hk
    simp only [wordGXNN, ← BitVec.getLsbD_eq_getElem, BitVec.getLsbD_extractLsb', BitVec.getLsbD_append]
    simp [hk, show ¬ (8 + k < 8) by omega, show 8 + k - 8 = k by omega]
  rw [fieldX, h, regField]

theorem fieldNN_GXNN (g : BitVec 4) (x : RegIdx) (nn : Byte) : fieldNN (wordGXNN g x nn) = nn := by
  ext k hk
  simp only [fieldNN, wordGXNN, ← BitVec.getLsbD_eq_getElem, BitVec.getLsbD_extractLsb', BitVec.getLsbD_append]
  simp [hk]

/-! ### A word G NNN -/

theorem fieldG_GNNN (g : BitVec 4) (nnn : Addr) : fieldG (wordGNNN g nnn) = g := by
  ext k hk
  simp only [fieldG, wordGNNN, ← BitVec.getLsbD_eq_getElem, BitVec.getLsbD_extractLsb', BitVec.getLsbD_append]
  simp [hk]

theorem fieldNNN_GNNN (g : BitVec 4) (nnn : Addr) : fieldNNN (wordGNNN g nnn) = nnn := by
  ext k hk
  simp only [fieldNNN, wordGNNN, ← BitVec.getLsbD_eq_getElem, BitVec.getLsbD_extractLsb', BitVec.getLsbD_append]
  simp [hk]

end Sys2Proof
end

