-- ==== Sys2Proof/Laws/Memory.lean ====
section
/-! SUPPORT. The laws of memory: a read after a write, and the canonical form kept by every operation. -/

namespace Sys2Proof.Machine

theorem Memory.unlisted_of_ge {a : Nat} (h : 80 ≤ a) : Memory.unlisted a = 0x00#8 := by
  simp [Memory.unlisted, Config.fontSize, Nat.not_lt.mpr h]

theorem Memory.unlisted_of_lt {a : Nat} (h : a < 80) : Memory.unlisted a = Config.font a := by
  simp [Memory.unlisted, Config.fontSize, h]

@[simp] theorem Memory.read_nil (a : Nat) : Memory.read [] a = Memory.unlisted a := rfl

theorem Memory.read_cons (c : Host.Cell) (m : Memory) (a : Nat) :
    Memory.read (c :: m) a = if c.1 = a then c.2 else Memory.read m a := rfl

/-- An address below every listed one reads as unlisted. -/
theorem Memory.read_of_lt_all {m : Memory} {a : Nat} (h : ∀ c ∈ m, a < c.1) : Memory.read m a = Memory.unlisted a := by
  induction m with
  | nil => rfl
  | cons c m ih =>
    have hc := h c (List.mem_cons_self ..)
    rw [Memory.read_cons, if_neg (by omega)]
    exact ih fun d hd => h d (List.mem_cons_of_mem _ hd)

/-- Writing changes no other address. -/
theorem Memory.read_write_other (m : Memory) {a d : Nat} (b : Byte) (h : d ≠ a) :
    Memory.read (Memory.write m a b) d = Memory.read m d := by
  induction m with
  | nil =>
    unfold Memory.write
    split <;> simp [Memory.read_cons, h.symm]
  | cons c m ih =>
    unfold Memory.write
    split
    · split <;> simp [Memory.read_cons, h.symm]
    · split
      · next he =>
        have hcd : c.1 ≠ d := fun e => h (e.symm.trans he.symm)
        split <;> simp [Memory.read_cons, hcd, h.symm]
      · simp [Memory.read_cons, ih]

/-- The byte written is the byte read, in a memory whose addresses rise. -/
theorem Memory.read_write_same {m : Memory} (hm : m.Pairwise (fun c d => c.1 < d.1)) (a : Nat) (b : Byte) :
    Memory.read (Memory.write m a b) a = b := by
  induction m with
  | nil =>
    unfold Memory.write
    split <;> simp_all [Memory.read_cons]
  | cons c m ih =>
    have ⟨hc, hm'⟩ := List.pairwise_cons.mp hm
    unfold Memory.write
    split
    · next hlt =>
      split
      · next hb => rw [hb]; exact Memory.read_of_lt_all (by
          intro d hd
          rcases List.mem_cons.mp hd with rfl | hd
          · exact hlt
          · exact hlt.trans (hc d hd))
      · simp [Memory.read_cons]
    · split
      · next he =>
        split
        · next hb => rw [hb]; exact Memory.read_of_lt_all fun d hd => he ▸ hc d hd
        · simp [Memory.read_cons]
      · next hne => rw [Memory.read_cons, if_neg (fun e => hne e.symm), ih hm']

/-- A cell of the memory after a write is the cell written or was there before. -/
theorem Memory.mem_write {m : Memory} {a : Nat} {b : Byte} {c : Host.Cell} (h : c ∈ Memory.write m a b) :
    c ∈ m ∨ (c = (a, b) ∧ b ≠ Memory.unlisted a) := by
  induction m with
  | nil =>
    unfold Memory.write at h
    split at h <;> simp_all
  | cons d m ih =>
    unfold Memory.write at h
    split at h
    · split at h
      · exact .inl h
      · rcases List.mem_cons.mp h with rfl | h
        · exact .inr ⟨rfl, ‹_›⟩
        · exact .inl h
    · split at h
      · split at h
        · exact .inl (List.mem_cons_of_mem _ h)
        · rcases List.mem_cons.mp h with rfl | h
          · exact .inr ⟨rfl, ‹_›⟩
          · exact .inl (List.mem_cons_of_mem _ h)
      · rcases List.mem_cons.mp h with rfl | h
        · exact .inl (List.mem_cons_self ..)
        · exact (ih h).imp (List.mem_cons_of_mem _) id

/-- A write keeps the addresses rising. -/
theorem Memory.write_pairwise {m : Memory} (hm : m.Pairwise (fun c d => c.1 < d.1)) (a : Nat) (b : Byte) :
    (Memory.write m a b).Pairwise (fun c d => c.1 < d.1) := by
  induction m with
  | nil => unfold Memory.write; split <;> simp
  | cons c m ih =>
    have ⟨hc, hm'⟩ := List.pairwise_cons.mp hm
    unfold Memory.write
    split
    · next hlt =>
      split
      · exact hm
      · refine List.pairwise_cons.mpr ⟨fun d hd => ?_, hm⟩
        rcases List.mem_cons.mp hd with rfl | hd
        · exact hlt
        · exact hlt.trans (hc d hd)
    · split
      · next he =>
        split
        · exact hm'
        · exact List.pairwise_cons.mpr ⟨fun d hd => he ▸ hc d hd, hm'⟩
      · refine List.pairwise_cons.mpr ⟨fun d hd => ?_, ih hm'⟩
        rcases Memory.mem_write hd with hd | ⟨rfl, -⟩
        · exact hc d hd
        · show c.1 < a
          omega

/-- A write inside memory keeps the canonical form. -/
theorem Memory.write_wf {m : Memory} (hm : m.wf) {a : Nat} (ha : a < 4096) (b : Byte) : (Memory.write m a b).wf := by
  refine ⟨Memory.write_pairwise hm.1 a b, fun c hc => ?_⟩
  rcases Memory.mem_write hc with hc | ⟨rfl, hb⟩
  · exact hm.2 c hc
  · exact ⟨ha, hb⟩

/-- A run of bytes written inside memory keeps the canonical form. -/
theorem Memory.writeBytes_wf {m : Memory} (hm : m.wf) {a : Nat} (bs : List Byte) (h : a + bs.length ≤ 4096) :
    (Memory.writeBytes m a bs).wf := by
  induction bs generalizing m a with
  | nil => exact hm
  | cons b bs ih =>
    rw [List.length_cons] at h
    exact ih (Memory.write_wf hm (by omega) b) (by omega)

theorem Memory.writeBytes_pairwise {m : Memory} (hm : m.Pairwise (fun c d => c.1 < d.1)) (a : Nat) (bs : List Byte) :
    (Memory.writeBytes m a bs).Pairwise (fun c d => c.1 < d.1) := by
  induction bs generalizing m a with
  | nil => exact hm
  | cons b bs ih => exact ih (Memory.write_pairwise hm a b) (a + 1)

/-- A run of bytes changes no address outside it. -/
theorem Memory.read_writeBytes_other (m : Memory) {a d : Nat} (bs : List Byte) (h : d < a ∨ a + bs.length ≤ d) :
    Memory.read (Memory.writeBytes m a bs) d = Memory.read m d := by
  induction bs generalizing m a with
  | nil => rfl
  | cons b bs ih =>
    rw [List.length_cons] at h
    rw [Memory.writeBytes, ih _ (by omega), Memory.read_write_other _ _ (by omega)]

/-- Each byte of a run written is the byte read at its address. -/
theorem Memory.read_writeBytes_at {m : Memory} (hm : m.Pairwise (fun c d => c.1 < d.1)) (a : Nat) (bs : List Byte)
    {k : Nat} (h : k < bs.length) : Memory.read (Memory.writeBytes m a bs) (a + k) = bs[k] := by
  induction bs generalizing m a k with
  | nil => simp at h
  | cons b bs ih =>
    cases k with
    | zero =>
      rw [Memory.writeBytes, Memory.read_writeBytes_other _ _ (by omega), Nat.add_zero, Memory.read_write_same hm]
      rfl
    | succ k =>
      have := ih (Memory.write_pairwise hm a b) (a + 1) (k := k) (by simpa using h)
      rw [Memory.writeBytes, show a + (k + 1) = a + 1 + k by omega, this, List.getElem_cons_succ]

@[simp] theorem Memory.length_readBytes (m : Memory) (a n : Nat) : (Memory.readBytes m a n).length = n := by
  simp [Memory.readBytes]

@[simp] theorem Memory.getElem_readBytes (m : Memory) (a n : Nat) {k : Nat} (h : k < (Memory.readBytes m a n).length) :
    (Memory.readBytes m a n)[k] = Memory.read m (a + k) := by
  simp [Memory.readBytes]

/-- The canonical form is canonical: two memories in it that read the same everywhere are the same data. -/
theorem Memory.ext_of_wf {m n : Memory} (hm : m.wf) (hn : n.wf) (h : ∀ a, Memory.read m a = Memory.read n a) : m = n := by
  induction m generalizing n with
  | nil =>
    cases n with
    | nil => rfl
    | cons d n => exact absurd (by simpa [Memory.read_cons] using (h d.1).symm) (hn.2 d (List.mem_cons_self ..)).2
  | cons c m ih =>
    have ⟨hc, hm'⟩ := List.pairwise_cons.mp hm.1
    cases n with
    | nil => exact absurd (by simpa [Memory.read_cons] using h c.1) (hm.2 c (List.mem_cons_self ..)).2
    | cons d n =>
      have ⟨hd, hn'⟩ := List.pairwise_cons.mp hn.1
      have hcd : c.1 = d.1 := by
        rcases Nat.lt_trichotomy c.1 d.1 with hlt | he | hgt
        · refine absurd ?_ (hm.2 c (List.mem_cons_self ..)).2
          rw [show c.2 = Memory.read (c :: m) c.1 by simp [Memory.read_cons], h]
          exact Memory.read_of_lt_all fun e he => (List.mem_cons.mp he).elim (fun e' => e' ▸ hlt) fun e' => hlt.trans (hd e e')
        · exact he
        · refine absurd ?_ (hn.2 d (List.mem_cons_self ..)).2
          rw [show d.2 = Memory.read (d :: n) d.1 by simp [Memory.read_cons], ← h]
          exact Memory.read_of_lt_all fun e he => (List.mem_cons.mp he).elim (fun e' => e' ▸ hgt) fun e' => hgt.trans (hc e e')
      have hv : c.2 = d.2 := by
        have := h c.1
        simpa [Memory.read_cons, hcd] using this
      have hce : c = d := Prod.ext hcd hv
      subst hce
      congr 1
      refine ih ⟨hm', fun e he => hm.2 e (List.mem_cons_of_mem _ he)⟩ ⟨hn', fun e he => hn.2 e (List.mem_cons_of_mem _ he)⟩ fun a => ?_
      by_cases ha : c.1 = a
      · subst ha
        rw [Memory.read_of_lt_all hc, Memory.read_of_lt_all hd]
      · have := h a
        simpa [Memory.read_cons, ha] using this

end Sys2Proof.Machine
end

