-- ==== Sys2Proof/Laws/State.lean ====
section
/-! SUPPORT. One lemma for each field and each update of the state, true by rfl, so that no later proof unfolds an update. -/

namespace Sys2Proof.Machine

variable (s : State)

/-! ### setV -/

@[simp] theorem State.setV_mem (r : RegIdx) (b : Byte) : (s.setV r b).mem = s.mem := rfl
@[simp] theorem State.setV_pc (r : RegIdx) (b : Byte) : (s.setV r b).pc = s.pc := rfl
@[simp] theorem State.setV_v (r : RegIdx) (b : Byte) : (s.setV r b).v = s.v.set r b := rfl
@[simp] theorem State.setV_i (r : RegIdx) (b : Byte) : (s.setV r b).i = s.i := rfl
@[simp] theorem State.setV_stack (r : RegIdx) (b : Byte) : (s.setV r b).stack = s.stack := rfl
@[simp] theorem State.setV_sp (r : RegIdx) (b : Byte) : (s.setV r b).sp = s.sp := rfl
@[simp] theorem State.setV_dt (r : RegIdx) (b : Byte) : (s.setV r b).dt = s.dt := rfl
@[simp] theorem State.setV_st (r : RegIdx) (b : Byte) : (s.setV r b).st = s.st := rfl
@[simp] theorem State.setV_key (r : RegIdx) (b : Byte) : (s.setV r b).key = s.key := rfl
@[simp] theorem State.setV_pix (r : RegIdx) (b : Byte) : (s.setV r b).pix = s.pix := rfl
@[simp] theorem State.setV_status (r : RegIdx) (b : Byte) : (s.setV r b).status = s.status := rfl
@[simp] theorem State.setV_draws (r : RegIdx) (b : Byte) : (s.setV r b).draws = s.draws := rfl

/-! ### setPc -/

@[simp] theorem State.setPc_mem (a : Word) : (s.setPc a).mem = s.mem := rfl
@[simp] theorem State.setPc_pc (a : Word) : (s.setPc a).pc = a := rfl
@[simp] theorem State.setPc_v (a : Word) : (s.setPc a).v = s.v := rfl
@[simp] theorem State.setPc_i (a : Word) : (s.setPc a).i = s.i := rfl
@[simp] theorem State.setPc_stack (a : Word) : (s.setPc a).stack = s.stack := rfl
@[simp] theorem State.setPc_sp (a : Word) : (s.setPc a).sp = s.sp := rfl
@[simp] theorem State.setPc_dt (a : Word) : (s.setPc a).dt = s.dt := rfl
@[simp] theorem State.setPc_st (a : Word) : (s.setPc a).st = s.st := rfl
@[simp] theorem State.setPc_key (a : Word) : (s.setPc a).key = s.key := rfl
@[simp] theorem State.setPc_pix (a : Word) : (s.setPc a).pix = s.pix := rfl
@[simp] theorem State.setPc_status (a : Word) : (s.setPc a).status = s.status := rfl
@[simp] theorem State.setPc_draws (a : Word) : (s.setPc a).draws = s.draws := rfl

/-! ### setI -/

@[simp] theorem State.setI_mem (a : Word) : (s.setI a).mem = s.mem := rfl
@[simp] theorem State.setI_pc (a : Word) : (s.setI a).pc = s.pc := rfl
@[simp] theorem State.setI_v (a : Word) : (s.setI a).v = s.v := rfl
@[simp] theorem State.setI_i (a : Word) : (s.setI a).i = a := rfl
@[simp] theorem State.setI_stack (a : Word) : (s.setI a).stack = s.stack := rfl
@[simp] theorem State.setI_sp (a : Word) : (s.setI a).sp = s.sp := rfl
@[simp] theorem State.setI_dt (a : Word) : (s.setI a).dt = s.dt := rfl
@[simp] theorem State.setI_st (a : Word) : (s.setI a).st = s.st := rfl
@[simp] theorem State.setI_key (a : Word) : (s.setI a).key = s.key := rfl
@[simp] theorem State.setI_pix (a : Word) : (s.setI a).pix = s.pix := rfl
@[simp] theorem State.setI_status (a : Word) : (s.setI a).status = s.status := rfl
@[simp] theorem State.setI_draws (a : Word) : (s.setI a).draws = s.draws := rfl

/-! ### setDt -/

@[simp] theorem State.setDt_mem (b : Byte) : (s.setDt b).mem = s.mem := rfl
@[simp] theorem State.setDt_pc (b : Byte) : (s.setDt b).pc = s.pc := rfl
@[simp] theorem State.setDt_v (b : Byte) : (s.setDt b).v = s.v := rfl
@[simp] theorem State.setDt_i (b : Byte) : (s.setDt b).i = s.i := rfl
@[simp] theorem State.setDt_stack (b : Byte) : (s.setDt b).stack = s.stack := rfl
@[simp] theorem State.setDt_sp (b : Byte) : (s.setDt b).sp = s.sp := rfl
@[simp] theorem State.setDt_dt (b : Byte) : (s.setDt b).dt = b := rfl
@[simp] theorem State.setDt_st (b : Byte) : (s.setDt b).st = s.st := rfl
@[simp] theorem State.setDt_key (b : Byte) : (s.setDt b).key = s.key := rfl
@[simp] theorem State.setDt_pix (b : Byte) : (s.setDt b).pix = s.pix := rfl
@[simp] theorem State.setDt_status (b : Byte) : (s.setDt b).status = s.status := rfl
@[simp] theorem State.setDt_draws (b : Byte) : (s.setDt b).draws = s.draws := rfl

/-! ### setSt -/

@[simp] theorem State.setSt_mem (b : Byte) : (s.setSt b).mem = s.mem := rfl
@[simp] theorem State.setSt_pc (b : Byte) : (s.setSt b).pc = s.pc := rfl
@[simp] theorem State.setSt_v (b : Byte) : (s.setSt b).v = s.v := rfl
@[simp] theorem State.setSt_i (b : Byte) : (s.setSt b).i = s.i := rfl
@[simp] theorem State.setSt_stack (b : Byte) : (s.setSt b).stack = s.stack := rfl
@[simp] theorem State.setSt_sp (b : Byte) : (s.setSt b).sp = s.sp := rfl
@[simp] theorem State.setSt_dt (b : Byte) : (s.setSt b).dt = s.dt := rfl
@[simp] theorem State.setSt_st (b : Byte) : (s.setSt b).st = b := rfl
@[simp] theorem State.setSt_key (b : Byte) : (s.setSt b).key = s.key := rfl
@[simp] theorem State.setSt_pix (b : Byte) : (s.setSt b).pix = s.pix := rfl
@[simp] theorem State.setSt_status (b : Byte) : (s.setSt b).status = s.status := rfl
@[simp] theorem State.setSt_draws (b : Byte) : (s.setSt b).draws = s.draws := rfl

/-! ### setPix -/

@[simp] theorem State.setPix_mem (p : Pixels) : (s.setPix p).mem = s.mem := rfl
@[simp] theorem State.setPix_pc (p : Pixels) : (s.setPix p).pc = s.pc := rfl
@[simp] theorem State.setPix_v (p : Pixels) : (s.setPix p).v = s.v := rfl
@[simp] theorem State.setPix_i (p : Pixels) : (s.setPix p).i = s.i := rfl
@[simp] theorem State.setPix_stack (p : Pixels) : (s.setPix p).stack = s.stack := rfl
@[simp] theorem State.setPix_sp (p : Pixels) : (s.setPix p).sp = s.sp := rfl
@[simp] theorem State.setPix_dt (p : Pixels) : (s.setPix p).dt = s.dt := rfl
@[simp] theorem State.setPix_st (p : Pixels) : (s.setPix p).st = s.st := rfl
@[simp] theorem State.setPix_key (p : Pixels) : (s.setPix p).key = s.key := rfl
@[simp] theorem State.setPix_pix (p : Pixels) : (s.setPix p).pix = p := rfl
@[simp] theorem State.setPix_status (p : Pixels) : (s.setPix p).status = s.status := rfl
@[simp] theorem State.setPix_draws (p : Pixels) : (s.setPix p).draws = s.draws := rfl

/-! ### setMem -/

@[simp] theorem State.setMem_mem (m : Memory) : (s.setMem m).mem = m := rfl
@[simp] theorem State.setMem_pc (m : Memory) : (s.setMem m).pc = s.pc := rfl
@[simp] theorem State.setMem_v (m : Memory) : (s.setMem m).v = s.v := rfl
@[simp] theorem State.setMem_i (m : Memory) : (s.setMem m).i = s.i := rfl
@[simp] theorem State.setMem_stack (m : Memory) : (s.setMem m).stack = s.stack := rfl
@[simp] theorem State.setMem_sp (m : Memory) : (s.setMem m).sp = s.sp := rfl
@[simp] theorem State.setMem_dt (m : Memory) : (s.setMem m).dt = s.dt := rfl
@[simp] theorem State.setMem_st (m : Memory) : (s.setMem m).st = s.st := rfl
@[simp] theorem State.setMem_key (m : Memory) : (s.setMem m).key = s.key := rfl
@[simp] theorem State.setMem_pix (m : Memory) : (s.setMem m).pix = s.pix := rfl
@[simp] theorem State.setMem_status (m : Memory) : (s.setMem m).status = s.status := rfl
@[simp] theorem State.setMem_draws (m : Memory) : (s.setMem m).draws = s.draws := rfl

/-! ### advance -/

@[simp] theorem State.advance_mem : (s.advance).mem = s.mem := rfl
@[simp] theorem State.advance_pc : (s.advance).pc = s.pc + 2 := rfl
@[simp] theorem State.advance_v : (s.advance).v = s.v := rfl
@[simp] theorem State.advance_i : (s.advance).i = s.i := rfl
@[simp] theorem State.advance_stack : (s.advance).stack = s.stack := rfl
@[simp] theorem State.advance_sp : (s.advance).sp = s.sp := rfl
@[simp] theorem State.advance_dt : (s.advance).dt = s.dt := rfl
@[simp] theorem State.advance_st : (s.advance).st = s.st := rfl
@[simp] theorem State.advance_key : (s.advance).key = s.key := rfl
@[simp] theorem State.advance_pix : (s.advance).pix = s.pix := rfl
@[simp] theorem State.advance_status : (s.advance).status = s.status := rfl
@[simp] theorem State.advance_draws : (s.advance).draws = s.draws := rfl

/-! ### push -/

@[simp] theorem State.push_mem (a : Word) : (s.push a).mem = s.mem := rfl
@[simp] theorem State.push_pc (a : Word) : (s.push a).pc = s.pc := rfl
@[simp] theorem State.push_v (a : Word) : (s.push a).v = s.v := rfl
@[simp] theorem State.push_i (a : Word) : (s.push a).i = s.i := rfl
@[simp] theorem State.push_stack (a : Word) : (s.push a).stack = s.stack.setIfInBounds s.sp a := rfl
@[simp] theorem State.push_sp (a : Word) : (s.push a).sp = s.sp + 1 := rfl
@[simp] theorem State.push_dt (a : Word) : (s.push a).dt = s.dt := rfl
@[simp] theorem State.push_st (a : Word) : (s.push a).st = s.st := rfl
@[simp] theorem State.push_key (a : Word) : (s.push a).key = s.key := rfl
@[simp] theorem State.push_pix (a : Word) : (s.push a).pix = s.pix := rfl
@[simp] theorem State.push_status (a : Word) : (s.push a).status = s.status := rfl
@[simp] theorem State.push_draws (a : Word) : (s.push a).draws = s.draws := rfl

/-! ### popToPc -/

@[simp] theorem State.popToPc_mem : (s.popToPc).mem = s.mem := rfl
@[simp] theorem State.popToPc_pc : (s.popToPc).pc = s.slot (s.sp - 1) := rfl
@[simp] theorem State.popToPc_v : (s.popToPc).v = s.v := rfl
@[simp] theorem State.popToPc_i : (s.popToPc).i = s.i := rfl
@[simp] theorem State.popToPc_stack : (s.popToPc).stack = s.stack := rfl
@[simp] theorem State.popToPc_sp : (s.popToPc).sp = s.sp - 1 := rfl
@[simp] theorem State.popToPc_dt : (s.popToPc).dt = s.dt := rfl
@[simp] theorem State.popToPc_st : (s.popToPc).st = s.st := rfl
@[simp] theorem State.popToPc_key : (s.popToPc).key = s.key := rfl
@[simp] theorem State.popToPc_pix : (s.popToPc).pix = s.pix := rfl
@[simp] theorem State.popToPc_status : (s.popToPc).status = s.status := rfl
@[simp] theorem State.popToPc_draws : (s.popToPc).draws = s.draws := rfl

/-! ### countDraw -/

@[simp] theorem State.countDraw_mem : (s.countDraw).mem = s.mem := rfl
@[simp] theorem State.countDraw_pc : (s.countDraw).pc = s.pc := rfl
@[simp] theorem State.countDraw_v : (s.countDraw).v = s.v := rfl
@[simp] theorem State.countDraw_i : (s.countDraw).i = s.i := rfl
@[simp] theorem State.countDraw_stack : (s.countDraw).stack = s.stack := rfl
@[simp] theorem State.countDraw_sp : (s.countDraw).sp = s.sp := rfl
@[simp] theorem State.countDraw_dt : (s.countDraw).dt = s.dt := rfl
@[simp] theorem State.countDraw_st : (s.countDraw).st = s.st := rfl
@[simp] theorem State.countDraw_key : (s.countDraw).key = s.key := rfl
@[simp] theorem State.countDraw_pix : (s.countDraw).pix = s.pix := rfl
@[simp] theorem State.countDraw_status : (s.countDraw).status = s.status := rfl
@[simp] theorem State.countDraw_draws : (s.countDraw).draws = s.draws + 1 := rfl

/-! ### storeBytes -/

@[simp] theorem State.storeBytes_mem (a : Nat) (bs : List Byte) : (s.storeBytes a bs).mem = s.mem.writeBytes a bs := rfl
@[simp] theorem State.storeBytes_pc (a : Nat) (bs : List Byte) : (s.storeBytes a bs).pc = s.pc := rfl
@[simp] theorem State.storeBytes_v (a : Nat) (bs : List Byte) : (s.storeBytes a bs).v = s.v := rfl
@[simp] theorem State.storeBytes_i (a : Nat) (bs : List Byte) : (s.storeBytes a bs).i = s.i := rfl
@[simp] theorem State.storeBytes_stack (a : Nat) (bs : List Byte) : (s.storeBytes a bs).stack = s.stack := rfl
@[simp] theorem State.storeBytes_sp (a : Nat) (bs : List Byte) : (s.storeBytes a bs).sp = s.sp := rfl
@[simp] theorem State.storeBytes_dt (a : Nat) (bs : List Byte) : (s.storeBytes a bs).dt = s.dt := rfl
@[simp] theorem State.storeBytes_st (a : Nat) (bs : List Byte) : (s.storeBytes a bs).st = s.st := rfl
@[simp] theorem State.storeBytes_key (a : Nat) (bs : List Byte) : (s.storeBytes a bs).key = s.key := rfl
@[simp] theorem State.storeBytes_pix (a : Nat) (bs : List Byte) : (s.storeBytes a bs).pix = s.pix := rfl
@[simp] theorem State.storeBytes_status (a : Nat) (bs : List Byte) : (s.storeBytes a bs).status = s.status := rfl
@[simp] theorem State.storeBytes_draws (a : Nat) (bs : List Byte) : (s.storeBytes a bs).draws = s.draws := rfl

/-! ### loadRegs -/

@[simp] theorem State.loadRegs_mem (x : RegIdx) : (s.loadRegs x).mem = s.mem := rfl
@[simp] theorem State.loadRegs_pc (x : RegIdx) : (s.loadRegs x).pc = s.pc := rfl
@[simp] theorem State.loadRegs_v (x : RegIdx) : (s.loadRegs x).v = Vector.ofFn fun k => if k ≤ x then s.readByte (s.effAddr k) else s.v[k] := rfl
@[simp] theorem State.loadRegs_i (x : RegIdx) : (s.loadRegs x).i = s.i := rfl
@[simp] theorem State.loadRegs_stack (x : RegIdx) : (s.loadRegs x).stack = s.stack := rfl
@[simp] theorem State.loadRegs_sp (x : RegIdx) : (s.loadRegs x).sp = s.sp := rfl
@[simp] theorem State.loadRegs_dt (x : RegIdx) : (s.loadRegs x).dt = s.dt := rfl
@[simp] theorem State.loadRegs_st (x : RegIdx) : (s.loadRegs x).st = s.st := rfl
@[simp] theorem State.loadRegs_key (x : RegIdx) : (s.loadRegs x).key = s.key := rfl
@[simp] theorem State.loadRegs_pix (x : RegIdx) : (s.loadRegs x).pix = s.pix := rfl
@[simp] theorem State.loadRegs_status (x : RegIdx) : (s.loadRegs x).status = s.status := rfl
@[simp] theorem State.loadRegs_draws (x : RegIdx) : (s.loadRegs x).draws = s.draws := rfl

/-! ### raiseFault -/

@[simp] theorem State.raiseFault_mem (a : Word) (k : FaultKind) (n : Nat) : (s.raiseFault a k n).mem = s.mem := rfl
@[simp] theorem State.raiseFault_pc (a : Word) (k : FaultKind) (n : Nat) : (s.raiseFault a k n).pc = a := rfl
@[simp] theorem State.raiseFault_v (a : Word) (k : FaultKind) (n : Nat) : (s.raiseFault a k n).v = s.v := rfl
@[simp] theorem State.raiseFault_i (a : Word) (k : FaultKind) (n : Nat) : (s.raiseFault a k n).i = s.i := rfl
@[simp] theorem State.raiseFault_stack (a : Word) (k : FaultKind) (n : Nat) : (s.raiseFault a k n).stack = s.stack := rfl
@[simp] theorem State.raiseFault_sp (a : Word) (k : FaultKind) (n : Nat) : (s.raiseFault a k n).sp = s.sp := rfl
@[simp] theorem State.raiseFault_dt (a : Word) (k : FaultKind) (n : Nat) : (s.raiseFault a k n).dt = s.dt := rfl
@[simp] theorem State.raiseFault_st (a : Word) (k : FaultKind) (n : Nat) : (s.raiseFault a k n).st = s.st := rfl
@[simp] theorem State.raiseFault_key (a : Word) (k : FaultKind) (n : Nat) : (s.raiseFault a k n).key = s.key := rfl
@[simp] theorem State.raiseFault_pix (a : Word) (k : FaultKind) (n : Nat) : (s.raiseFault a k n).pix = s.pix := rfl
@[simp] theorem State.raiseFault_status (a : Word) (k : FaultKind) (n : Nat) : (s.raiseFault a k n).status = .faulted k a n := rfl
@[simp] theorem State.raiseFault_draws (a : Word) (k : FaultKind) (n : Nat) : (s.raiseFault a k n).draws = s.draws := rfl

/-! ### hostTick -/

@[simp] theorem State.hostTick_mem : (s.hostTick).mem = s.mem := rfl
@[simp] theorem State.hostTick_pc : (s.hostTick).pc = s.pc := rfl
@[simp] theorem State.hostTick_v : (s.hostTick).v = s.v := rfl
@[simp] theorem State.hostTick_i : (s.hostTick).i = s.i := rfl
@[simp] theorem State.hostTick_stack : (s.hostTick).stack = s.stack := rfl
@[simp] theorem State.hostTick_sp : (s.hostTick).sp = s.sp := rfl
@[simp] theorem State.hostTick_dt : (s.hostTick).dt = tickDown s.dt := rfl
@[simp] theorem State.hostTick_st : (s.hostTick).st = tickDown s.st := rfl
@[simp] theorem State.hostTick_key : (s.hostTick).key = s.key := rfl
@[simp] theorem State.hostTick_pix : (s.hostTick).pix = s.pix := rfl
@[simp] theorem State.hostTick_status : (s.hostTick).status = s.status := rfl
@[simp] theorem State.hostTick_draws : (s.hostTick).draws = s.draws := rfl

/-! ### skipIf -/

@[simp] theorem State.skipIf_true : s.skipIf true = s.setPc (s.pc + 2) := rfl
@[simp] theorem State.skipIf_false : s.skipIf false = s := rfl
@[simp] theorem State.skipIf_mem (c : Bool) : (s.skipIf c).mem = s.mem := by cases c <;> rfl
@[simp] theorem State.skipIf_pc (c : Bool) : (s.skipIf c).pc = if c then s.pc + 2 else s.pc := by
  cases c <;> rfl
@[simp] theorem State.skipIf_v (c : Bool) : (s.skipIf c).v = s.v := by cases c <;> rfl
@[simp] theorem State.skipIf_i (c : Bool) : (s.skipIf c).i = s.i := by cases c <;> rfl
@[simp] theorem State.skipIf_stack (c : Bool) : (s.skipIf c).stack = s.stack := by cases c <;> rfl
@[simp] theorem State.skipIf_sp (c : Bool) : (s.skipIf c).sp = s.sp := by cases c <;> rfl
@[simp] theorem State.skipIf_dt (c : Bool) : (s.skipIf c).dt = s.dt := by cases c <;> rfl
@[simp] theorem State.skipIf_st (c : Bool) : (s.skipIf c).st = s.st := by cases c <;> rfl
@[simp] theorem State.skipIf_key (c : Bool) : (s.skipIf c).key = s.key := by cases c <;> rfl
@[simp] theorem State.skipIf_pix (c : Bool) : (s.skipIf c).pix = s.pix := by cases c <;> rfl
@[simp] theorem State.skipIf_status (c : Bool) : (s.skipIf c).status = s.status := by cases c <;> rfl
@[simp] theorem State.skipIf_draws (c : Bool) : (s.skipIf c).draws = s.draws := by cases c <;> rfl

/-! ### setWithFlag -/

@[simp] theorem State.setWithFlag_mem (x : RegIdx) (b : Byte) (c : Bool) : (s.setWithFlag x b c).mem = s.mem := rfl
@[simp] theorem State.setWithFlag_pc (x : RegIdx) (b : Byte) (c : Bool) : (s.setWithFlag x b c).pc = s.pc := rfl
@[simp] theorem State.setWithFlag_v (x : RegIdx) (b : Byte) (c : Bool) : (s.setWithFlag x b c).v = (s.v.set x b).set VF (flagByte c) := rfl
@[simp] theorem State.setWithFlag_i (x : RegIdx) (b : Byte) (c : Bool) : (s.setWithFlag x b c).i = s.i := rfl
@[simp] theorem State.setWithFlag_stack (x : RegIdx) (b : Byte) (c : Bool) : (s.setWithFlag x b c).stack = s.stack := rfl
@[simp] theorem State.setWithFlag_sp (x : RegIdx) (b : Byte) (c : Bool) : (s.setWithFlag x b c).sp = s.sp := rfl
@[simp] theorem State.setWithFlag_dt (x : RegIdx) (b : Byte) (c : Bool) : (s.setWithFlag x b c).dt = s.dt := rfl
@[simp] theorem State.setWithFlag_st (x : RegIdx) (b : Byte) (c : Bool) : (s.setWithFlag x b c).st = s.st := rfl
@[simp] theorem State.setWithFlag_key (x : RegIdx) (b : Byte) (c : Bool) : (s.setWithFlag x b c).key = s.key := rfl
@[simp] theorem State.setWithFlag_pix (x : RegIdx) (b : Byte) (c : Bool) : (s.setWithFlag x b c).pix = s.pix := rfl
@[simp] theorem State.setWithFlag_status (x : RegIdx) (b : Byte) (c : Bool) : (s.setWithFlag x b c).status = s.status := rfl
@[simp] theorem State.setWithFlag_draws (x : RegIdx) (b : Byte) (c : Bool) : (s.setWithFlag x b c).draws = s.draws := rfl

/-! ### Registers and bytes read after an update -/

@[simp] theorem State.getV_setV_same (r : RegIdx) (b : Byte) : (s.setV r b).getV r = b := by
  simp [State.getV]

theorem State.getV_setV_other {r q : RegIdx} (h : q ≠ r) (b : Byte) : (s.setV r b).getV q = s.getV q := by
  simp only [State.getV, State.setV_v, Fin.getElem_fin]
  exact Vector.getElem_set_ne (by omega) (by omega) (fun e => h (Fin.ext e.symm))

theorem State.getV_setV (r q : RegIdx) (b : Byte) : (s.setV r b).getV q = if q = r then b else s.getV q := by
  by_cases h : q = r
  · subst h; simp
  · simp [h, State.getV_setV_other]

/-- A flag-writing instruction: VF holds the flag, X the result unless X is VF, and nothing else changes (42_alu.md R130). -/
theorem State.getV_setWithFlag (x q : RegIdx) (b : Byte) (c : Bool) :
    (s.setWithFlag x b c).getV q = if q = VF then flagByte c else if q = x then b else s.getV q := by
  simp only [State.setWithFlag, State.getV_setV]

@[simp] theorem State.getV_setPc (a : Word) (q : RegIdx) : (s.setPc a).getV q = s.getV q := rfl
@[simp] theorem State.getV_setI (a : Word) (q : RegIdx) : (s.setI a).getV q = s.getV q := rfl
@[simp] theorem State.getV_setDt (b : Byte) (q : RegIdx) : (s.setDt b).getV q = s.getV q := rfl
@[simp] theorem State.getV_setSt (b : Byte) (q : RegIdx) : (s.setSt b).getV q = s.getV q := rfl
@[simp] theorem State.getV_setPix (p : Pixels) (q : RegIdx) : (s.setPix p).getV q = s.getV q := rfl
@[simp] theorem State.getV_setMem (m : Memory) (q : RegIdx) : (s.setMem m).getV q = s.getV q := rfl
@[simp] theorem State.getV_advance (q : RegIdx) : (s.advance).getV q = s.getV q := rfl
@[simp] theorem State.getV_push (a : Word) (q : RegIdx) : (s.push a).getV q = s.getV q := rfl
@[simp] theorem State.getV_popToPc (q : RegIdx) : (s.popToPc).getV q = s.getV q := rfl
@[simp] theorem State.getV_countDraw (q : RegIdx) : (s.countDraw).getV q = s.getV q := rfl
@[simp] theorem State.getV_storeBytes (a : Nat) (bs : List Byte) (q : RegIdx) : (s.storeBytes a bs).getV q = s.getV q := rfl
@[simp] theorem State.getV_raiseFault (a : Word) (k : FaultKind) (n : Nat) (q : RegIdx) : (s.raiseFault a k n).getV q = s.getV q := rfl
@[simp] theorem State.readByte_setV (r : RegIdx) (b : Byte) (d : Nat) : (s.setV r b).readByte d = s.readByte d := rfl
@[simp] theorem State.readByte_setPc (a : Word) (d : Nat) : (s.setPc a).readByte d = s.readByte d := rfl
@[simp] theorem State.readByte_setI (a : Word) (d : Nat) : (s.setI a).readByte d = s.readByte d := rfl
@[simp] theorem State.readByte_setDt (b : Byte) (d : Nat) : (s.setDt b).readByte d = s.readByte d := rfl
@[simp] theorem State.readByte_setSt (b : Byte) (d : Nat) : (s.setSt b).readByte d = s.readByte d := rfl
@[simp] theorem State.readByte_setPix (p : Pixels) (d : Nat) : (s.setPix p).readByte d = s.readByte d := rfl
@[simp] theorem State.readByte_advance (d : Nat) : (s.advance).readByte d = s.readByte d := rfl
@[simp] theorem State.readByte_push (a : Word) (d : Nat) : (s.push a).readByte d = s.readByte d := rfl
@[simp] theorem State.readByte_popToPc (d : Nat) : (s.popToPc).readByte d = s.readByte d := rfl
@[simp] theorem State.readByte_countDraw (d : Nat) : (s.countDraw).readByte d = s.readByte d := rfl
@[simp] theorem State.readByte_loadRegs (x : RegIdx) (d : Nat) : (s.loadRegs x).readByte d = s.readByte d := rfl
@[simp] theorem State.readByte_raiseFault (a : Word) (k : FaultKind) (n : Nat) (d : Nat) : (s.raiseFault a k n).readByte d = s.readByte d := rfl
@[simp] theorem State.getV_skipIf (c : Bool) (q : RegIdx) : (s.skipIf c).getV q = s.getV q := by cases c <;> rfl
@[simp] theorem State.readByte_skipIf (c : Bool) (d : Nat) : (s.skipIf c).readByte d = s.readByte d := by cases c <;> rfl
@[simp] theorem State.readByte_setWithFlag (x : RegIdx) (b : Byte) (c : Bool) (d : Nat) :
    (s.setWithFlag x b c).readByte d = s.readByte d := rfl

/-- FX65: V0..VX come from memory at I, the others are untouched (45_memory_transfer.md R212). -/
theorem State.getV_loadRegs (x q : RegIdx) :
    (s.loadRegs x).getV q = if q ≤ x then s.readByte (s.effAddr q) else s.getV q := by
  simp [State.getV]

end Sys2Proof.Machine
end

