-- ==== Sys2Proof/Laws/Ops.lean ====
section
/-! SUPPORT. One lemma for each shared operation that says everything it can do: faults, range checks, the stack, the
keys, and runs of bytes. -/

namespace Sys2Proof.Machine
variable (s : State)

/-! ### Faults and range checks -/

/-- Taking a fault never stops the machine: it goes to the state FAULTED (40_cycle.md R96). -/
theorem raise_eq (kind : FaultKind) (value : Nat) :
    raise kind value s = .next { s with pc := s.pc - 2, status := .faulted kind (s.pc - 2) value } := rfl

/-- After the advance, taking a fault undoes it (R92, R96). -/
theorem raise_advance (kind : FaultKind) (value : Nat) :
    raise kind value s.advance = .next { s with status := .faulted kind s.pc value } := by
  simp [raise_eq, State.advance, State.setPc]

theorem State.rangeOut_iff (n : Nat) : s.rangeOut n = true ↔ 0 < n ∧ 4096 ≤ s.i.toNat + n - 1 := by
  rw [State.rangeOut, decide_eq_true_iff]
  simp only [State.effAddr, Config.memSize]
  omega

theorem State.rangeOut_eq_false_iff (n : Nat) : s.rangeOut n = false ↔ n = 0 ∨ s.i.toNat + n ≤ 4096 := by
  rw [← Bool.not_eq_true, State.rangeOut_iff]
  omega

/-- A range instruction whose range fits has its effect (20_memory.md R54). -/
theorem withRange_fits {n : Nat} {s e : State} (h : n = 0 ∨ s.i.toNat + n ≤ 4096) : withRange n s e = .next e := by
  rw [withRange, if_neg (by rw [Bool.not_eq_true, State.rangeOut_eq_false_iff]; exact h)]

/-- A range instruction whose range reaches 4096 faults and has no effect (R54). -/
theorem withRange_faults {n : Nat} {s : State} (e : State) (h : 0 < n ∧ 4096 ≤ s.i.toNat + n - 1) :
    withRange n s e = raise .memOutOfBounds (max s.i.toNat 4096) s := by
  rw [withRange, if_pos ((State.rangeOut_iff s n).mpr h)]
  rfl

/-- Everything a range instruction can do. -/
theorem withRange_cases {n : Nat} {s e t : State} (h : withRange n s e = .next t) :
    ((n = 0 ∨ s.i.toNat + n ≤ 4096) ∧ t = e) ∨
    (0 < n ∧ 4096 ≤ s.i.toNat + n - 1 ∧ t = s.raiseFault (s.pc - 2) .memOutOfBounds (max s.i.toNat 4096)) := by
  unfold withRange at h
  split at h
  · next ho => exact .inr ⟨((s.rangeOut_iff n).mp ho).1, ((s.rangeOut_iff n).mp ho).2, (Host.Outcome.next.inj h).symm⟩
  · next ho => exact .inl ⟨(s.rangeOut_eq_false_iff n).mp (by simpa using ho), (Host.Outcome.next.inj h).symm⟩

/-! ### The call stack -/

theorem State.slot_of_lt {k : Nat} (h : k < 16) : s.slot k = s.stack[k] := by
  simp [State.slot, h]

theorem State.slot_push_same (a : Word) (h : s.sp < 16) : (s.push a).slot s.sp = a := by
  simp [State.slot, h]

theorem State.slot_push_other (a : Word) {k : Nat} (h : k ≠ s.sp) : (s.push a).slot k = s.slot k := by
  simp [State.slot, Vector.getElem?_setIfInBounds_ne h.symm]

/-! ### Keys -/

theorem State.keyDown_of_lt {k : Nat} (h : k < 16) : s.keyDown k = s.key[k] := by
  simp [State.keyDown, h]

/-- "VX values ≥ 16 are not pressed" (44_keypad_timers.md R190). -/
theorem State.keyDown_of_ge {k : Nat} (h : 16 ≤ k) : s.keyDown k = false := by
  simp [State.keyDown, h]

/-- The key found is the lowest one down (R194, R197). -/
theorem State.firstKeyDown_eq_some_iff (k : Nat) :
    s.firstKeyDown = some k ↔ k < 16 ∧ s.keyDown k = true ∧ ∀ j < k, s.keyDown j = false := by
  rw [State.firstKeyDown, List.find?_range_eq_some]
  simp only [Bool.not_eq_true', List.mem_range]
  tauto

theorem State.firstKeyDown_eq_none_iff : s.firstKeyDown = none ↔ ∀ k < 16, s.keyDown k = false := by
  simp [State.firstKeyDown]

/-! ### Runs of bytes -/

theorem State.readByte_storeBytes_other {a d : Nat} (bs : List Byte) (h : d < a ∨ a + bs.length ≤ d) :
    (s.storeBytes a bs).readByte d = s.readByte d :=
  Memory.read_writeBytes_other _ bs h

theorem State.readByte_storeBytes_at (hm : s.mem.wf) (a : Nat) (bs : List Byte) {k : Nat} (h : k < bs.length) :
    (s.storeBytes a bs).readByte (a + k) = bs[k] :=
  Memory.read_writeBytes_at hm.1 a bs h

@[simp] theorem State.length_regsUpTo (x : RegIdx) : (s.regsUpTo x).length = x.val + 1 := by
  simp [State.regsUpTo]

theorem State.getElem_regsUpTo (x : RegIdx) {k : Nat} (h : k < (s.regsUpTo x).length) :
    (s.regsUpTo x)[k] = s.getV ⟨k, by simp at h; omega⟩ := by
  simp [State.regsUpTo, State.getV]

@[simp] theorem length_bcdDigits (b : Byte) : (bcdDigits b).length = 3 := rfl

@[simp] theorem length_bytesOfWord (w : Word) : (bytesOfWord w).length = 2 := rfl

theorem wordOfBytes_bytesOfWord (w : Word) : wordOfBytes (w.extractLsb' 8 8) (w.extractLsb' 0 8) = w := by
  ext k hk
  rw [← BitVec.getLsbD_eq_getElem, ← BitVec.getLsbD_eq_getElem, wordOfBytes, BitVec.getLsbD_append]
  split
  · next h => simp [h]
  · next h => simp [show k - 8 < 8 by omega, show 8 + (k - 8) = k by omega]

/-- A word placed at PC is the word fetched (20_memory.md R51, R62). -/
theorem State.fetchWord_placeWord (hm : s.mem.wf) (w : Word) : (s.placeWord w).fetchWord = w := by
  have h0 := s.readByte_storeBytes_at hm s.pc.toNat (bytesOfWord w) (k := 0) (by simp)
  have h1 := s.readByte_storeBytes_at hm s.pc.toNat (bytesOfWord w) (k := 1) (by simp)
  simp only [State.fetchWord, State.placeWord, State.storeBytes_pc]
  rw [Nat.add_zero] at h0
  rw [h0, h1]
  exact wordOfBytes_bytesOfWord w

end Sys2Proof.Machine
end

