-- ==== Sys2Proof/Laws/Cycle.lean ====
section
/-! SUPPORT. What a step can do, said once: the cases of `step`, with what each needs and what it answers. -/

namespace Sys2Proof.Machine
variable (s : State)

/-- With this hardware's parameters, `execWith` is `exec` (00_scope.md R8). -/
theorem execWith_params (i : Instr) : execWith Config.params i s = exec i s := by
  cases i <;> rfl

/-- With this hardware's parameters an unrecognized word always faults (30_encoding.md R80, R81). -/
theorem execUnrecognized_params (w : Word) : execUnrecognized Config.params w s = raise .illegalOpcode w.toNat s := rfl

theorem State.fetchOk_iff : s.fetchOk = true ↔ s.pc.toNat ≤ 4094 := by
  rw [State.fetchOk, decide_eq_true_iff]
  simp only [Config.memSize]
  omega

theorem State.fetchOk_eq_false_iff : s.fetchOk = false ↔ 4095 ≤ s.pc.toNat := by
  rw [← Bool.not_eq_true, State.fetchOk_iff]
  omega

/-- A step in FAULTED stops with the recorded fault (40_cycle.md R97). -/
theorem step_of_faulted {s : State} {k : FaultKind} {a : Word} {n : Nat} (h : s.status = .faulted k a n) :
    step s = .fault (.faulted k n) := by
  simp only [step, cycle, stepWith, h]

/-- A step whose PC is past 4094 faults in fetch (R91). -/
theorem step_of_fetch_out {s : State} (hs : s.status = .running) (h : 4095 ≤ s.pc.toNat) :
    step s = .next (s.raiseFault s.pc .fetchOutOfBounds s.pc.toNat) := by
  simp only [step, cycle, stepWith, hs, s.fetchOk_eq_false_iff.mpr h, Bool.false_eq_true, if_false]

/-- A step that fetches an instruction runs it after the advance (R90, R92). -/
theorem step_of_decode {s : State} {i : Instr} (hs : s.status = .running) (h : s.pc.toNat ≤ 4094)
    (hi : decode s.fetchWord = some i) : step s = exec i s.advance := by
  rw [decode] at hi
  simp only [step, cycle, stepWith, hs, s.fetchOk_iff.mpr h, if_true, hi, execWith_params]

/-- A step that fetches an unrecognized word faults (R94). -/
theorem step_of_unrecognized {s : State} (hs : s.status = .running) (h : s.pc.toNat ≤ 4094)
    (hi : decode s.fetchWord = none) :
    step s = .next { s with status := .faulted .illegalOpcode s.pc s.fetchWord.toNat } := by
  rw [decode] at hi
  simp only [step, cycle, stepWith, hs, s.fetchOk_iff.mpr h, if_true, hi, execUnrecognized_params, raise_advance]

/-- Everything a step that answers a next state can have done. -/
theorem step_next_cases {s t : State} (h : step s = .next t) :
    s.status = .running ∧
    ((4095 ≤ s.pc.toNat ∧ t = { s with status := .faulted .fetchOutOfBounds s.pc s.pc.toNat }) ∨
     (s.pc.toNat ≤ 4094 ∧ decode s.fetchWord = none ∧
        t = { s with status := .faulted .illegalOpcode s.pc s.fetchWord.toNat }) ∨
     (s.pc.toNat ≤ 4094 ∧ ∃ i, decode s.fetchWord = some i ∧ exec i s.advance = .next t)) := by
  cases hs : s.status with
  | faulted k a n => rw [step_of_faulted hs] at h; cases h
  | running =>
    refine ⟨rfl, ?_⟩
    by_cases hp : s.pc.toNat ≤ 4094
    · cases hi : decode s.fetchWord with
      | none => rw [step_of_unrecognized hs hp hi] at h; exact .inr (.inl ⟨hp, rfl, (Host.Outcome.next.inj h).symm⟩)
      | some i => rw [step_of_decode hs hp hi] at h; exact .inr (.inr ⟨hp, i, rfl, h⟩)
    · rw [step_of_fetch_out hs (by omega)] at h
      exact .inl ⟨by omega, (Host.Outcome.next.inj h).symm⟩

/-- Taking a fault inside an instruction leaves the fault's state and nothing else (40_cycle.md R96). -/
theorem raise_faultTaken (kind : FaultKind) (value : Nat) :
    ∃ t, raise kind value s = .next t ∧ faultTaken kind value s t :=
  ⟨_, rfl, rfl, rfl, by constructor <;> simp⟩

/-- A range instruction answers a next state: its effect, or a fault taken. -/
theorem withRange_isNext (n : Nat) (e : State) : ∃ t, withRange n s e = .next t := by
  unfold withRange
  split <;> exact ⟨_, rfl⟩

/-- Every instruction answers a next state: a fault taken is one too (40_cycle.md R96). -/
theorem exec_isNext (i : Instr) : ∃ t, exec i s = .next t := by
  cases i with
  | ret => show ∃ t, execRet s = .next t; unfold execRet; split <;> exact ⟨_, rfl⟩
  | call nnn => show ∃ t, execCall nnn s = .next t; unfold execCall; split <;> exact ⟨_, rfl⟩
  | ldVxK x => show ∃ t, execLdVxK x s = .next t; unfold execLdVxK; split <;> exact ⟨_, rfl⟩
  | drw x y n => exact withRange_isNext s n _
  | ldBVx x => exact withRange_isNext s 3 _
  | ldMemVx x => exact withRange_isNext s (x.val + 1) _
  | ldVxMem x => exact withRange_isNext s (x.val + 1) _
  | _ => exact ⟨_, rfl⟩

/-- The word placed by `withFetchWord` is the next word fetched, in a machine whose memory is canonical. -/
theorem State.fetchWord_withFetchWord (hm : s.mem.wf) (nbits w : Nat) :
    (s.withFetchWord nbits w).fetchWord = BitVec.ofNat 16 (w % 2 ^ nbits) := by
  have h : s.readyToFetch.mem.wf := hm
  rw [State.withFetchWord, s.readyToFetch.fetchWord_placeWord h]

end Sys2Proof.Machine
end

