-- ==== Sys2Proof/Laws/Display.lean ====
section
/-! SUPPORT. What the compositor does, said once: the sprite's pixels are distinct points, each one XORs its pixel, and
the collision flag says whether one of them was lit before (43_display.md R172 to R174). -/

namespace Sys2Proof.Machine

/-- Flipping one pixel changes that pixel alone. -/
theorem pixelAt_flipPixel (p : Pixels) {x y x' y' : Nat} (hx' : x' < 64) (hy' : y' < 32) :
    pixelAt (flipPixel p x y) x' y' = (pixelAt p x' y' ^^ decide ((x', y') = (x, y))) := by
  by_cases hy : y = y'
  · subst hy
    simp only [pixelAt, flipPixel, Vector.getElem?_setIfInBounds_self, hy', if_true, Option.getD_some,
      BitVec.getLsbD_xor, BitVec.getLsbD_shiftLeft, BitVec.getLsbD_one, hx', decide_true, Bool.true_and, Prod.mk.injEq,
      and_true]
    congr 1
    by_cases h : x' = x
    · simp [h]
    · simp only [h, decide_false, Bool.and_eq_false_imp, Bool.not_eq_true', decide_eq_false_iff_not]
      omega
  · simp [pixelAt, flipPixel, Vector.getElem?_setIfInBounds_ne hy, Ne.symm hy]

theorem pixelAt_blankPixels (x y : Nat) : pixelAt blankPixels x y = false := by
  rw [pixelAt, blankPixels, Vector.getElem?_replicate]
  split <;> simp

/-- A set sprite bit that lands on screen: XOR its pixel, and note a collision. -/
def plot (c : Canvas) (t : Nat × Nat) : Canvas :=
  { pix := flipPixel c.pix t.1 t.2, hit := c.hit || pixelAt c.pix t.1 t.2 }

/-- The points of a sprite's set bits, row by row, before the edge is looked at. -/
def spritePoints (ox : Nat) : Nat → List Byte → List (Nat × Nat)
  | _, [] => []
  | oy, row :: rows =>
    ((List.range 8).filter (spriteBit row)).map (fun b => (ox + b, oy)) ++ spritePoints ox (oy + 1) rows

/-- The screen pixels a sprite's set bits land on. -/
def spriteTargets (edge : Config.SpriteEdge) (ox oy : Nat) (rows : List Byte) : List (Nat × Nat) :=
  (spritePoints ox oy rows).filterMap fun p => spriteTarget edge p.1 p.2

theorem drawPixel_eq (edge : Config.SpriteEdge) (cx cy : Nat) (c : Canvas) :
    drawPixel edge cx cy c = (spriteTarget edge cx cy).elim c (plot c) := by
  unfold drawPixel
  split <;> simp_all [plot]

theorem foldl_filterMap_elim {α β γ : Type} (f : α → Option β) (g : γ → β → γ) (l : List α) (c : γ) :
    (l.filterMap f).foldl g c = l.foldl (fun c a => (f a).elim c (g c)) c := by
  induction l generalizing c with
  | nil => rfl
  | cons a l ih => cases h : f a <;> simp [h, ih]

theorem drawRow_eq (edge : Config.SpriteEdge) (ox cy : Nat) (row : Byte) (c : Canvas) :
    drawRow edge ox cy row c =
      (((List.range 8).filter (spriteBit row)).map (fun b => (ox + b, cy))).foldl
        (fun c p => (spriteTarget edge p.1 p.2).elim c (plot c)) c := by
  simp only [drawRow, List.foldl_map, List.foldl_filter, drawPixel_eq]

/-- Drawing a sprite plots its targets, one after the other. -/
theorem drawRows_eq_plots (edge : Config.SpriteEdge) (ox oy : Nat) (rows : List Byte) (c : Canvas) :
    drawRows edge ox oy rows c = (spriteTargets edge ox oy rows).foldl plot c := by
  rw [spriteTargets, foldl_filterMap_elim]
  induction rows generalizing oy c with
  | nil => rfl
  | cons row rows ih => rw [drawRows, ih, drawRow_eq, spritePoints, List.foldl_append]

/-- Plotting distinct screen pixels: each one flips, and the flag says whether one of them was lit before. -/
theorem foldl_plot {ts : List (Nat × Nat)} (hn : ts.Nodup) (hs : ∀ t ∈ ts, t.1 < 64 ∧ t.2 < 32) (c : Canvas) :
    (∀ x y, x < 64 → y < 32 → pixelAt (ts.foldl plot c).pix x y = (pixelAt c.pix x y ^^ decide ((x, y) ∈ ts))) ∧
    (ts.foldl plot c).hit = (c.hit || ts.any fun t => pixelAt c.pix t.1 t.2) := by
  induction ts generalizing c with
  | nil => simp
  | cons t ts ih =>
    have ⟨ht, hn'⟩ := List.nodup_cons.mp hn
    have hst := hs t (List.mem_cons_self ..)
    obtain ⟨hpix, hhit⟩ := ih hn' (fun u hu => hs u (List.mem_cons_of_mem _ hu)) (plot c t)
    constructor
    · intro x y hx hy
      rw [List.foldl_cons, hpix x y hx hy, plot, pixelAt_flipPixel _ hx hy, Bool.xor_assoc]
      congr 1
      by_cases he : (x, y) = t
      · rw [he] at *
        simp [ht]
      · simp [he]
    · rw [List.foldl_cons, hhit, plot, List.any_cons, Bool.or_assoc]
      congr 2
      rw [Bool.eq_iff_iff, List.any_eq_true, List.any_eq_true]
      refine exists_congr fun u => and_congr_right fun hu => ?_
      have hsu := hs u (List.mem_cons_of_mem _ hu)
      have hne : (u.1, u.2) ≠ (t.1, t.2) := fun e => ht ((show u = t from e) ▸ hu)
      rw [pixelAt_flipPixel _ hsu.1 hsu.2, decide_eq_false hne, Bool.xor_false]

theorem mem_spritePoints (ox oy : Nat) (rows : List Byte) (p : Nat × Nat) :
    p ∈ spritePoints ox oy rows ↔
      ∃ r b, ∃ h : r < rows.length, b < 8 ∧ spriteBit rows[r] b = true ∧ p = (ox + b, oy + r) := by
  induction rows generalizing oy with
  | nil => simp [spritePoints]
  | cons row rows ih =>
    simp only [spritePoints, List.mem_append, List.mem_map, List.mem_filter, List.mem_range, ih]
    constructor
    · rintro (⟨b, ⟨hb, hbit⟩, rfl⟩ | ⟨r, b, h, hb, hbit, rfl⟩)
      · exact ⟨0, b, by simp, hb, by simpa using hbit, rfl⟩
      · exact ⟨r + 1, b, by simpa using h, hb, by simpa using hbit, by rw [Prod.mk.injEq]; omega⟩
    · rintro ⟨r, b, h, hb, hbit, rfl⟩
      cases r with
      | zero => exact .inl ⟨b, ⟨hb, by simpa using hbit⟩, rfl⟩
      | succ r => exact .inr ⟨r, b, by simpa using h, hb, by simpa using hbit, by rw [Prod.mk.injEq]; omega⟩

theorem nodup_spritePoints (ox oy : Nat) (rows : List Byte) : (spritePoints ox oy rows).Nodup := by
  induction rows generalizing oy with
  | nil => simp [spritePoints]
  | cons row rows ih =>
    refine List.nodup_append.mpr ⟨?_, ih (oy + 1), ?_⟩
    · refine ((List.nodup_range).filter _).map ?_
      intro a b h
      simpa using congrArg Prod.fst h
    · intro p hp q hq he
      obtain ⟨b, -, rfl⟩ := List.mem_map.mp hp
      obtain ⟨r, b', -, -, -, hq⟩ := (mem_spritePoints ..).mp hq
      rw [← he, Prod.mk.injEq] at hq
      omega

theorem spriteTarget_onScreen {edge : Config.SpriteEdge} {cx cy : Nat} {t : Nat × Nat}
    (h : spriteTarget edge cx cy = some t) : t.1 < 64 ∧ t.2 < 32 := by
  cases edge
  · simp only [spriteTarget, screenWidth, screenHeight] at h
    split at h
    · cases h
    · cases h; omega
  · cases h
    exact ⟨Nat.mod_lt _ (by decide), Nat.mod_lt _ (by decide)⟩

theorem spriteTargets_onScreen {edge : Config.SpriteEdge} {ox oy : Nat} {rows : List Byte} :
    ∀ t ∈ spriteTargets edge ox oy rows, t.1 < 64 ∧ t.2 < 32 := by
  intro t ht
  obtain ⟨p, -, hp⟩ := List.mem_filterMap.mp ht
  exact spriteTarget_onScreen hp

/-- "Two pixels of one sprite never land on the same screen pixel" (R172), under Clip. -/
theorem nodup_spriteTargets_clip (ox oy : Nat) (rows : List Byte) : (spriteTargets .clip ox oy rows).Nodup := by
  refine (nodup_spritePoints ox oy rows).filterMap ?_
  intro a b t ha hb
  simp only [spriteTarget, Option.mem_def] at ha hb
  split at ha <;> split at hb <;> simp_all

/-- The same under Wrap, for at most 32 rows (R172, R174). -/
theorem nodup_spriteTargets_wrap (ox oy : Nat) {rows : List Byte} (h : rows.length ≤ 32) :
    (spriteTargets .wrap ox oy rows).Nodup := by
  have hn := nodup_spritePoints ox oy rows
  rw [spriteTargets, List.Nodup, List.pairwise_filterMap]
  refine hn.imp_of_mem fun {a b} ha hb hab t ht u hu he => hab ?_
  obtain ⟨r, i, hr, hi, -, rfl⟩ := (mem_spritePoints ..).mp ha
  obtain ⟨r', i', hr', hi', -, rfl⟩ := (mem_spritePoints ..).mp hb
  subst he
  simp only [spriteTarget, screenWidth, screenHeight] at ht hu
  rw [← hu] at ht
  simp only [Option.some.injEq, Prod.mk.injEq] at ht
  rw [Prod.mk.injEq]
  omega

/-- Under Clip: the pixels a drawn sprite leaves, and its collision flag (R172, R173). -/
theorem drawRows_clip (ox oy : Nat) (rows : List Byte) (c : Canvas) :
    (∀ x y, x < 64 → y < 32 → pixelAt (drawRows .clip ox oy rows c).pix x y =
      (pixelAt c.pix x y ^^ decide ((x, y) ∈ spriteTargets .clip ox oy rows))) ∧
    (drawRows .clip ox oy rows c).hit =
      (c.hit || (spriteTargets .clip ox oy rows).any fun t => pixelAt c.pix t.1 t.2) := by
  rw [drawRows_eq_plots]
  exact foldl_plot (nodup_spriteTargets_clip ox oy rows) spriteTargets_onScreen c

/-- Under Wrap, for at most 32 rows (R174). -/
theorem drawRows_wrap (ox oy : Nat) {rows : List Byte} (h : rows.length ≤ 32) (c : Canvas) :
    (∀ x y, x < 64 → y < 32 → pixelAt (drawRows .wrap ox oy rows c).pix x y =
      (pixelAt c.pix x y ^^ decide ((x, y) ∈ spriteTargets .wrap ox oy rows))) ∧
    (drawRows .wrap ox oy rows c).hit =
      (c.hit || (spriteTargets .wrap ox oy rows).any fun t => pixelAt c.pix t.1 t.2) := by
  rw [drawRows_eq_plots]
  exact foldl_plot (nodup_spriteTargets_wrap ox oy h) spriteTargets_onScreen c

theorem mem_spriteTargets_clip (ox oy : Nat) (rows : List Byte) (x y : Nat) :
    (x, y) ∈ spriteTargets .clip ox oy rows ↔
      x < 64 ∧ y < 32 ∧ ∃ r b, ∃ h : r < rows.length, b < 8 ∧ spriteBit rows[r] b = true ∧ x = ox + b ∧ y = oy + r := by
  simp only [spriteTargets, List.mem_filterMap, mem_spritePoints, spriteTarget, screenWidth, screenHeight]
  constructor
  · rintro ⟨p, ⟨r, b, h, hb, hbit, rfl⟩, ht⟩
    split at ht
    · cases ht
    · cases ht
      exact ⟨by omega, by omega, r, b, h, hb, hbit, rfl, rfl⟩
  · rintro ⟨hx, hy, r, b, h, hb, hbit, rfl, rfl⟩
    exact ⟨_, ⟨r, b, h, hb, hbit, rfl⟩, if_neg (by simp only; omega)⟩

theorem mem_spriteTargets_wrap (ox oy : Nat) (rows : List Byte) (x y : Nat) :
    (x, y) ∈ spriteTargets .wrap ox oy rows ↔
      ∃ r b, ∃ h : r < rows.length, b < 8 ∧ spriteBit rows[r] b = true ∧ x = (ox + b) % 64 ∧ y = (oy + r) % 32 := by
  simp only [spriteTargets, List.mem_filterMap, mem_spritePoints, spriteTarget, screenWidth, screenHeight]
  constructor
  · rintro ⟨p, ⟨r, b, h, hb, hbit, rfl⟩, ht⟩
    cases ht
    exact ⟨r, b, h, hb, hbit, rfl, rfl⟩
  · rintro ⟨r, b, h, hb, hbit, rfl, rfl⟩
    exact ⟨_, ⟨r, b, h, hb, hbit, rfl⟩, rfl⟩

end Sys2Proof.Machine
end

