-- ==== Sys2Proof/Laws/PerInstr.lean ====
section
/-! SUPPORT. Laws stated of every instruction as syntax, one lemma for each constructor.
RowMatch: the word of an instruction matches the row of the opcode map that bears its mnemonic (30_encoding.md R76). -/

namespace Sys2Proof.Laws

/-- The word the encoder gives is one of the words of the instruction's own row (R76). -/
def RowMatch.Statement (i : Instr) : Prop :=
  ∃ r ∈ opcodeMap, r.mnemonic = i.mnemonic ∧ r.matchesWord (encode i)

theorem append_and_append {m n : Nat} (a c : BitVec m) (b d : BitVec n) :
    (a ++ b) &&& (c ++ d) = (a &&& c) ++ (b &&& d) := by
  ext k hk
  simp only [← BitVec.getLsbD_eq_getElem, BitVec.getLsbD_and, BitVec.getLsbD_append]
  split <;> rfl

theorem nibble_and_mask (g : BitVec 4) : g &&& 0xF#4 = g := BitVec.and_allOnes

/-- A word G X Y N under a mask that keeps G and N, or G alone, or all of it. -/
theorem wordGXYN_and (g n m : BitVec 4) (x y : RegIdx) :
    wordGXYN g x y n &&& (0xF#4 ++ 0x0#4 ++ 0x0#4 ++ m) = g ++ 0x0#4 ++ 0x0#4 ++ (n &&& m) := by
  rw [wordGXYN, append_and_append, append_and_append, append_and_append, nibble_and_mask, BitVec.and_zero,
    BitVec.and_zero]

theorem wordGXNN_and (g : BitVec 4) (x : RegIdx) (nn m : Byte) :
    wordGXNN g x nn &&& (0xF#4 ++ 0x0#4 ++ m) = g ++ 0x0#4 ++ (nn &&& m) := by
  rw [wordGXNN, append_and_append, append_and_append, nibble_and_mask, BitVec.and_zero]

theorem wordGNNN_and (g : BitVec 4) (nnn : Addr) :
    wordGNNN g nnn &&& (0xF#4 ++ 0x000#12) = g ++ 0x000#12 := by
  rw [wordGNNN, append_and_append, nibble_and_mask, BitVec.and_zero]

namespace RowMatch

theorem cls : Statement (.cls) :=
  ⟨⟨"CLS", 0x00E0, 0xFFFF⟩, by decide, rfl, rfl⟩
theorem ret : Statement (.ret) :=
  ⟨⟨"RET", 0x00EE, 0xFFFF⟩, by decide, rfl, rfl⟩
theorem jp (nnn : Addr) : Statement (.jp nnn) :=
  ⟨⟨"JP", 0x1000, 0xF000⟩, by decide, rfl, wordGNNN_and _ _⟩
theorem call (nnn : Addr) : Statement (.call nnn) :=
  ⟨⟨"CALL", 0x2000, 0xF000⟩, by decide, rfl, wordGNNN_and _ _⟩
theorem seImm (x : RegIdx) (nn : Byte) : Statement (.seImm x nn) :=
  ⟨⟨"SE_IMM", 0x3000, 0xF000⟩, by decide, rfl, (wordGXNN_and _ _ _ 0x00).trans (by simp)⟩
theorem sneImm (x : RegIdx) (nn : Byte) : Statement (.sneImm x nn) :=
  ⟨⟨"SNE_IMM", 0x4000, 0xF000⟩, by decide, rfl, (wordGXNN_and _ _ _ 0x00).trans (by simp)⟩
theorem seReg (x y : RegIdx) : Statement (.seReg x y) :=
  ⟨⟨"SE_REG", 0x5000, 0xF000⟩, by decide, rfl, (wordGXYN_and _ _ 0x0 _ _).trans (by simp)⟩
theorem ldImm (x : RegIdx) (nn : Byte) : Statement (.ldImm x nn) :=
  ⟨⟨"LD_IMM", 0x6000, 0xF000⟩, by decide, rfl, (wordGXNN_and _ _ _ 0x00).trans (by simp)⟩
theorem addImm (x : RegIdx) (nn : Byte) : Statement (.addImm x nn) :=
  ⟨⟨"ADD_IMM", 0x7000, 0xF000⟩, by decide, rfl, (wordGXNN_and _ _ _ 0x00).trans (by simp)⟩
theorem ldReg (x y : RegIdx) : Statement (.ldReg x y) :=
  ⟨⟨"LD_REG", 0x8000, 0xF00F⟩, by decide, rfl, (wordGXYN_and _ _ 0xF _ _)⟩
theorem or (x y : RegIdx) : Statement (.or x y) :=
  ⟨⟨"OR", 0x8001, 0xF00F⟩, by decide, rfl, (wordGXYN_and _ _ 0xF _ _)⟩
theorem and (x y : RegIdx) : Statement (.and x y) :=
  ⟨⟨"AND", 0x8002, 0xF00F⟩, by decide, rfl, (wordGXYN_and _ _ 0xF _ _)⟩
theorem xor (x y : RegIdx) : Statement (.xor x y) :=
  ⟨⟨"XOR", 0x8003, 0xF00F⟩, by decide, rfl, (wordGXYN_and _ _ 0xF _ _)⟩
theorem addReg (x y : RegIdx) : Statement (.addReg x y) :=
  ⟨⟨"ADD_REG", 0x8004, 0xF00F⟩, by decide, rfl, (wordGXYN_and _ _ 0xF _ _)⟩
theorem sub (x y : RegIdx) : Statement (.sub x y) :=
  ⟨⟨"SUB", 0x8005, 0xF00F⟩, by decide, rfl, (wordGXYN_and _ _ 0xF _ _)⟩
theorem shr (x : RegIdx) : Statement (.shr x) :=
  ⟨⟨"SHR", 0x8006, 0xF00F⟩, by decide, rfl, (wordGXYN_and _ _ 0xF _ _)⟩
theorem subn (x y : RegIdx) : Statement (.subn x y) :=
  ⟨⟨"SUBN", 0x8007, 0xF00F⟩, by decide, rfl, (wordGXYN_and _ _ 0xF _ _)⟩
theorem shl (x : RegIdx) : Statement (.shl x) :=
  ⟨⟨"SHL", 0x800E, 0xF00F⟩, by decide, rfl, (wordGXYN_and _ _ 0xF _ _)⟩
theorem sneReg (x y : RegIdx) : Statement (.sneReg x y) :=
  ⟨⟨"SNE_REG", 0x9000, 0xF000⟩, by decide, rfl, (wordGXYN_and _ _ 0x0 _ _).trans (by simp)⟩
theorem ldI (nnn : Addr) : Statement (.ldI nnn) :=
  ⟨⟨"LD_I", 0xA000, 0xF000⟩, by decide, rfl, wordGNNN_and _ _⟩
theorem jpV0 (nnn : Addr) : Statement (.jpV0 nnn) :=
  ⟨⟨"JP_V0", 0xB000, 0xF000⟩, by decide, rfl, wordGNNN_and _ _⟩
theorem rnd (x : RegIdx) (nn : Byte) : Statement (.rnd x nn) :=
  ⟨⟨"RND", 0xC000, 0xF000⟩, by decide, rfl, (wordGXNN_and _ _ _ 0x00).trans (by simp)⟩
theorem drw (x y : RegIdx) (n : Nat) : Statement (.drw x y n) :=
  ⟨⟨"DRW", 0xD000, 0xF000⟩, by decide, rfl, (wordGXYN_and _ _ 0x0 _ _).trans (by simp)⟩
theorem skp (x : RegIdx) : Statement (.skp x) :=
  ⟨⟨"SKP", 0xE09E, 0xF0FF⟩, by decide, rfl, (wordGXNN_and _ _ _ 0xFF)⟩
theorem sknp (x : RegIdx) : Statement (.sknp x) :=
  ⟨⟨"SKNP", 0xE0A1, 0xF0FF⟩, by decide, rfl, (wordGXNN_and _ _ _ 0xFF)⟩
theorem ldVxDt (x : RegIdx) : Statement (.ldVxDt x) :=
  ⟨⟨"LD_VX_DT", 0xF007, 0xF0FF⟩, by decide, rfl, (wordGXNN_and _ _ _ 0xFF)⟩
theorem ldVxK (x : RegIdx) : Statement (.ldVxK x) :=
  ⟨⟨"LD_VX_K", 0xF00A, 0xF0FF⟩, by decide, rfl, (wordGXNN_and _ _ _ 0xFF)⟩
theorem ldDtVx (x : RegIdx) : Statement (.ldDtVx x) :=
  ⟨⟨"LD_DT_VX", 0xF015, 0xF0FF⟩, by decide, rfl, (wordGXNN_and _ _ _ 0xFF)⟩
theorem ldStVx (x : RegIdx) : Statement (.ldStVx x) :=
  ⟨⟨"LD_ST_VX", 0xF018, 0xF0FF⟩, by decide, rfl, (wordGXNN_and _ _ _ 0xFF)⟩
theorem addIVx (x : RegIdx) : Statement (.addIVx x) :=
  ⟨⟨"ADD_I_VX", 0xF01E, 0xF0FF⟩, by decide, rfl, (wordGXNN_and _ _ _ 0xFF)⟩
theorem ldFVx (x : RegIdx) : Statement (.ldFVx x) :=
  ⟨⟨"LD_F_VX", 0xF029, 0xF0FF⟩, by decide, rfl, (wordGXNN_and _ _ _ 0xFF)⟩
theorem ldBVx (x : RegIdx) : Statement (.ldBVx x) :=
  ⟨⟨"LD_B_VX", 0xF033, 0xF0FF⟩, by decide, rfl, (wordGXNN_and _ _ _ 0xFF)⟩
theorem ldMemVx (x : RegIdx) : Statement (.ldMemVx x) :=
  ⟨⟨"LD_MEM_VX", 0xF055, 0xF0FF⟩, by decide, rfl, (wordGXNN_and _ _ _ 0xFF)⟩
theorem ldVxMem (x : RegIdx) : Statement (.ldVxMem x) :=
  ⟨⟨"LD_VX_MEM", 0xF065, 0xF0FF⟩, by decide, rfl, (wordGXNN_and _ _ _ 0xFF)⟩

end RowMatch

end Sys2Proof.Laws
end

