-- ==== Sys2Proof/Tests/Slice0.lean ====
section
/-! SUPPORT. Tests: the well-formedness check, decoding of words written out from the spec's encodings, one step on small
states with results taken from 95_test_vectors.md (the vector's id stands in each comment), and for each statement with
hypotheses a state that meets them. -/

namespace Sys2Proof.Tests
open Sys2Proof Sys2Proof.Machine

/-! ### Helpers -/

/-- The reset state with a word at PC = 0x200. -/
def st (w : Word) : State := State.reset.placeWord w

/-- The state after one step that answers a next state. -/
def stepped (s : State) : State :=
  match step s with
  | .next t => t
  | .fault _ | .refused _ => s

/-- The state after one instruction that answers a next state. -/
def ran (i : Instr) (s : State) : State :=
  match exec i s with
  | .next t => t
  | .fault _ | .refused _ => s

/-! ### WellFormed -/

theorem test_wellFormed_refuses_sprite_of_16_rows : (Instr.drw 0 1 16).wellFormed = false := by decide
theorem test_wellFormed_takes_sprite_of_15_rows : (Instr.drw 0 1 15).wellFormed = true := by decide

/-! ### Decoding: words written out from 30_encoding.md R76 -/

theorem test_decode_control_flow :
    decode 0b0000000011101110#16 = some .ret ∧ decode 0b0001001000101000#16 = some (.jp 0x228) ∧
    decode 0b0010001100000000#16 = some (.call 0x300) ∧ decode 0b0011101001000010#16 = some (.seImm 0xA 0x42) ∧
    decode 0b0100101001000010#16 = some (.sneImm 0xA 0x42) ∧ decode 0b0101101010110000#16 = some (.seReg 0xA 0xB) ∧
    decode 0b1001101010110000#16 = some (.sneReg 0xA 0xB) ∧ decode 0b1011001100000000#16 = some (.jpV0 0x300) := by decide

theorem test_decode_loads_and_index :
    decode 0b0110000000000101#16 = some (.ldImm 0 0x05) ∧ decode 0b0111000100000011#16 = some (.addImm 1 0x03) ∧
    decode 0b1010001100000000#16 = some (.ldI 0x300) ∧ decode 0b1100000100001111#16 = some (.rnd 1 0x0F) ∧
    decode 0b1111001000011110#16 = some (.addIVx 2) ∧ decode 0b1111101000101001#16 = some (.ldFVx 0xA) := by decide

theorem test_decode_alu :
    decode 0b1000000100100000#16 = some (.ldReg 1 2) ∧ decode 0b1000000100100001#16 = some (.or 1 2) ∧
    decode 0b1000000100100010#16 = some (.and 1 2) ∧ decode 0b1000000100100011#16 = some (.xor 1 2) ∧
    decode 0b1000000000010100#16 = some (.addReg 0 1) ∧ decode 0b1000000100100101#16 = some (.sub 1 2) ∧
    decode 0b1000000100100110#16 = some (.shr 1) ∧ decode 0b1000000100100111#16 = some (.subn 1 2) ∧
    decode 0b1000000100101110#16 = some (.shl 1) := by decide

theorem test_decode_display_and_memory :
    decode 0b0000000011100000#16 = some .cls ∧ decode 0b1101000000010010#16 = some (.drw 0 1 2) ∧
    decode 0b1111000000110011#16 = some (.ldBVx 0) ∧ decode 0b1111001001010101#16 = some (.ldMemVx 2) ∧
    decode 0b1111001001100101#16 = some (.ldVxMem 2) := by decide

theorem test_decode_keys_and_timers :
    decode 0b1110001110011110#16 = some (.skp 3) ∧ decode 0b1110001110100001#16 = some (.sknp 3) ∧
    decode 0b1111001000000111#16 = some (.ldVxDt 2) ∧ decode 0b1111000100001010#16 = some (.ldVxK 1) ∧
    decode 0b1111000000010101#16 = some (.ldDtVx 0) ∧ decode 0b1111010000011000#16 = some (.ldStVx 4) := by decide

-- V-ALU-ILL-1, V-ALU-ILL-2, V-KEY-ILL, V-F-ILL, V-SYS-1, V-SYS-3, V-SER-2, V-SER-3
theorem test_decode_refuses_unrecognized :
    decode 0x8128#16 = none ∧ decode 0x812F#16 = none ∧ decode 0xE09F#16 = none ∧ decode 0xF0FF#16 = none ∧
    decode 0x0123#16 = none ∧ decode 0x0000#16 = none ∧ decode 0x5AB3#16 = some (.seReg 0xA 0xB) ∧
    decodeWith true 0x5AB3#16 = none := by decide

theorem test_decodeBytes_high_byte_first :
    decodeBytes [0x61, 0x03, 0x80] = .ok (.ldImm 1 0x03, [0x80]) ∧ decodeBytes [0x61] = .error .truncated ∧
    decodeBytes [0x01, 0x23] = .error (.unrecognized 0x0123) := ⟨rfl, rfl, rfl⟩

theorem test_decodeTableWord : decodeTableWord 16 0x8014 = some (.addReg 0 1) := by decide

/-! ### Control flow (T3) -/

-- V-RET-1
theorem test_ret_pops :
    let t := stepped { (st 0x00EE) with sp := 1, stack := (Vector.replicate 16 0).set 0 0x20A }
    t.pc = 0x20A ∧ t.sp = 0 ∧ t.slot 0 = 0x20A := by decide
-- V-RET-2
theorem test_ret_underflow :
    let t := stepped (st 0x00EE)
    t.status = .faulted .stackUnderflow 0x200 0 ∧ t.pc = 0x200 := by decide
-- V-JP-1
theorem test_jp : (stepped (st 0x1228)).pc = 0x228 := by decide
-- V-JP-2
theorem test_jp_self : stepped (st 0x1200) = st 0x1200 := by decide
-- V-CALL-1
theorem test_call_pushes :
    let t := stepped (st 0x2300)
    t.slot 0 = 0x202 ∧ t.sp = 1 ∧ t.pc = 0x300 := by decide
-- V-CALL-2
theorem test_call_overflow :
    let t := stepped { (st 0x2300) with sp := 16 }
    t.status = .faulted .stackOverflow 0x200 16 ∧ t.sp = 16 ∧ t.pc = 0x200 := by decide
-- V-SE-1
theorem test_seImm_skips : (stepped ((st 0x3A42).setV 0xA 0x42)).pc = 0x204 := by decide
-- V-SE-2
theorem test_seImm_not : (stepped ((st 0x3A42).setV 0xA 0x41)).pc = 0x202 := by decide
-- V-SNE-1
theorem test_sneImm_skips : (stepped ((st 0x4A42).setV 0xA 0x41)).pc = 0x204 := by decide
-- V-SNE-2
theorem test_sneImm_not : (stepped ((st 0x4A42).setV 0xA 0x42)).pc = 0x202 := by decide
-- V-SER-2
theorem test_seReg_ignores_nibble : (stepped (((st 0x5AB3).setV 0xA 0x07).setV 0xB 0x07)).pc = 0x204 := by decide
-- V-SNER-1
theorem test_sneReg_skips : (stepped (((st 0x9AB0).setV 0xA 0x07).setV 0xB 0x08)).pc = 0x204 := by decide
-- V-SNER-2
theorem test_sneReg_same : (stepped ((st 0x9AA0).setV 0xA 0x07)).pc = 0x202 := by decide
-- V-JPV0-2
theorem test_jpV0_not_wrapped : (stepped ((st 0xBFFF).setV 0 0xFF)).pc = 0x10FE := by decide

/-! ### Registers and ALU (T4) -/

-- V-LD-2
theorem test_ldImm_vf : (stepped (st 0x6F12)).getV 0xF = 0x12 := by decide
-- V-ADDI-1
theorem test_addImm_wraps_no_flag :
    let t := stepped (((st 0x7103).setV 1 0xFE).setV 0xF 0x55)
    t.getV 1 = 0x01 ∧ t.getV 0xF = 0x55 := by decide
-- V-MOV-1
theorem test_ldReg : (stepped ((st 0x8120).setV 2 0x33)).getV 1 = 0x33 := by decide
-- V-OR-1
theorem test_or_keeps_vf :
    let t := stepped ((((st 0x8121).setV 1 0xF0).setV 2 0x0F).setV 0xF 0x05)
    t.getV 1 = 0xFF ∧ t.getV 0xF = 0x05 := by decide
-- V-AND-1
theorem test_and : (stepped (((st 0x8122).setV 1 0xF0).setV 2 0x3C)).getV 1 = 0x30 := by decide
-- V-XOR-1
theorem test_xor : (stepped (((st 0x8123).setV 1 0xF0).setV 2 0x3C)).getV 1 = 0xCC := by decide
-- V-ADD-1
theorem test_addReg_carry :
    let t := stepped (((st 0x8014).setV 0 0xFF).setV 1 0x01)
    t.getV 0 = 0x00 ∧ t.getV 0xF = 1 := by decide
-- V-ADD-4
theorem test_addReg_into_vf : (stepped (((st 0x8F14).setV 0xF 0xFF).setV 1 0x02)).getV 0xF = 1 := by decide
-- V-SUB-2
theorem test_sub_borrow :
    let t := stepped (((st 0x8125).setV 1 0x03).setV 2 0x05)
    t.getV 1 = 0xFE ∧ t.getV 0xF = 0 := by decide
-- V-SUB-3
theorem test_sub_equal :
    let t := stepped ((((st 0x8125).setV 1 0x07).setV 2 0x07).setV 0xF 0x09)
    t.getV 1 = 0x00 ∧ t.getV 0xF = 0 := by decide
-- V-SHR-1
theorem test_shr_ignores_y :
    let t := stepped (((st 0x8126).setV 1 0x05).setV 2 0xAA)
    t.getV 1 = 0x02 ∧ t.getV 0xF = 1 ∧ t.getV 2 = 0xAA := by decide
-- V-SHR-3
theorem test_shr_vf : (stepped ((st 0x8F06).setV 0xF 0x03)).getV 0xF = 1 := by decide
-- V-SUBN-1
theorem test_subn :
    let t := stepped (((st 0x8127).setV 1 0x01).setV 2 0x10)
    t.getV 1 = 0x0F ∧ t.getV 0xF = 1 := by decide
-- V-SHL-1
theorem test_shl :
    let t := stepped (((st 0x812E).setV 1 0x81).setV 2 0x01)
    t.getV 1 = 0x02 ∧ t.getV 0xF = 1 := by decide
-- V-LDI-1
theorem test_ldI : (stepped (st 0xA300)).i = 0x300 := by decide
-- V-RND-2
theorem test_rnd_mask_zero : (stepped (st 0xC100)).draws = 1 ∧ (stepped (st 0xC100)).pc = 0x202 := by decide
-- V-ADDI-I-2
theorem test_addIVx_past_memory :
    let t := stepped (((st 0xF21E).setI 0xFFF).setV 2 0x01)
    t.i = 0x1000 ∧ t.status = .running := by decide
-- V-ADDI-I-3
theorem test_addIVx_wraps : (stepped (((st 0xF21E).setI 0xFFFF).setV 2 0x02)).i = 0x0001 := by decide
-- V-FONT-2
theorem test_ldFVx_not_masked : (stepped ((st 0xFA29).setV 0xA 0xFF)).i = 0x4FB := by decide

/-! ### Display (T5) -/

-- V-CLS-1
theorem test_cls :
    (stepped ((st 0x00E0).setPix (flipPixel (flipPixel blankPixels 0 0) 63 31))).pix = blankPixels := by decide
-- V-DRW-2
theorem test_drw_collision :
    let t := stepped ((((st 0xD011).setI 0x300).storeBytes 0x300 [0x80]).setPix (flipPixel 0 0 0))
    t.pix = blankPixels ∧ t.getV 0xF = 1 := by decide
-- V-DRW-5
theorem test_drw_clips :
    let t := stepped (((((st 0xD012).setI 0x300).storeBytes 0x300 [0xC0, 0x80]).setV 0 0x3F).setV 1 0x1F)
    t.pix = flipPixel blankPixels 63 31 ∧ t.getV 0xF = 0 := by decide
-- V-DRW-7
theorem test_drw_wraps_under_wrap :
    let s := ((((st 0xD012).setI 0x300).storeBytes 0x300 [0xC0, 0x80]).setV 0 0x3F).setV 1 0x1F
    (s.drawSprite .wrap 0 1 2).pix = flipPixel (flipPixel (flipPixel blankPixels 63 31) 0 31) 63 0 := by decide

/-! ### Keys and timers (T6) -/

-- V-SKP-1
theorem test_skp_down : (stepped (((st 0xE39E).setV 3 0x07).hostSetKey 7 true)).pc = 0x204 := by decide
-- V-SKP-3
theorem test_skp_index_16 : (stepped (((st 0xE39E).setV 3 0x10).hostSetKey 0 true)).pc = 0x202 := by decide
-- V-SKNP-2
theorem test_sknp_down : (stepped (((st 0xE3A1).setV 3 0x07).hostSetKey 7 true)).pc = 0x202 := by decide
-- V-SKNP-3
theorem test_sknp_index_16 : (stepped ((st 0xE3A1).setV 3 0x10)).pc = 0x204 := by decide
-- V-LDDT-1
theorem test_ldVxDt : (stepped ((st 0xF207).setDt 0x03)).getV 2 = 0x03 := by decide
-- V-WAIT-1
theorem test_ldVxK_waits : (st 0xF10A).hostStep = (.stillWaiting, st 0xF10A) := by decide
-- V-WAIT-2
theorem test_ldVxK_lowest :
    let t := stepped (((st 0xF10A).hostSetKey 7 true).hostSetKey 3 true)
    t.getV 1 = 0x03 ∧ t.pc = 0x202 := by decide
-- V-SETDT-1
theorem test_ldDtVx : (stepped ((st 0xF015).setV 0 0x05)).dt = 5 := by decide
-- V-SETST-1
theorem test_ldStVx : (stepped ((st 0xF418).setV 4 0x1E)).st = 0x1E := by decide

/-! ### Memory transfer (T7) -/

-- V-BCD-5
theorem test_ldBVx_top :
    let t := stepped (((st 0xF033).setI 0xFFD).setV 0 123)
    t.readByte 0xFFD = 1 ∧ t.readByte 0xFFE = 2 ∧ t.readByte 0xFFF = 3 ∧ t.i = 0xFFD := by decide
-- V-BCD-6
theorem test_ldBVx_out :
    let t := stepped (((st 0xF033).setI 0xFFE).setV 0 123)
    t.status = .faulted .memOutOfBounds 0x200 0x1000 ∧ t.readByte 0xFFE = 0 := by decide
-- V-STM-1
theorem test_ldMemVx :
    let t := stepped (((((st 0xF255).setI 0x300).setV 0 0x11).setV 1 0x22).setV 2 0x33)
    t.readByte 0x300 = 0x11 ∧ t.readByte 0x301 = 0x22 ∧ t.readByte 0x302 = 0x33 ∧ t.i = 0x300 := by decide
-- V-STM-3
theorem test_ldMemVx_out : (stepped ((st 0xF055).setI 0x1234)).status = .faulted .memOutOfBounds 0x200 0x1234 := by decide
-- V-LDM-1
theorem test_ldVxMem :
    let t := stepped (((st 0xF265).setI 0x300).storeBytes 0x300 [2, 5, 4])
    t.getV 0 = 2 ∧ t.getV 1 = 5 ∧ t.getV 2 = 4 ∧ t.getV 3 = 0 := by decide
-- V-LDM-3
theorem test_ldVxMem_out : (stepped ((st 0xF165).setI 0xFFF)).status = .faulted .memOutOfBounds 0x200 0x1000 := by decide

/-! ### Fetch, faults and host operations (T8) -/

-- V-FETCH-1
theorem test_fetch_out :
    (stepped (State.resetAt 0xFFF)).status = .faulted .fetchOutOfBounds 0xFFF 0xFFF := by decide
-- V-FETCH-2
theorem test_fetch_last_word :
    let t := stepped ((State.resetAt 0xFFE).placeWord 0x6001)
    t.getV 0 = 1 ∧ t.pc = 0x1000 := by decide
-- V-SYS-1, V-STICKY-1
theorem test_illegal_is_sticky :
    let t := stepped (st 0x0123)
    t.status = .faulted .illegalOpcode 0x200 0x0123 ∧ t.hostStep = (.fault .illegalOpcode 0x0123, t) := by decide
-- V-SYS-2
theorem test_sys_nop :
    stepWith { Config.params with sysPolicy := .nop } (st 0x0123) = .next { (st 0x0123) with pc := 0x202 } := rfl
-- V-LOAD-2, V-LOAD-3, V-LOAD-4, V-LOAD-5
theorem test_load_bounds :
    (State.reset.hostLoad 0xFFF [1]).1 = .ok ∧ (State.reset.hostLoad 0xFFF [1]).2.readByte 0xFFF = 1 ∧
    State.reset.hostLoad 0xFFF [1, 2] = (.loadTooLarge 0xFFF 2, State.reset) ∧
    State.reset.hostLoad 0x1000 [] = (.ok, State.reset) ∧
    State.reset.hostLoad 0x1001 [] = (.loadTooLarge 0x1001 0, State.reset) := by decide
-- V-TICK-2, V-TICK-3
theorem test_tick :
    ({ State.reset with st := 2 } : State).hostTick = { State.reset with st := 1 } ∧
    ({ State.reset with dt := 4, status := .faulted .stackUnderflow 0x200 0 } : State).hostTick =
      { State.reset with dt := 3, status := .faulted .stackUnderflow 0x200 0 } := by decide
-- S12
theorem test_setKey_ignores_other_indices :
    State.reset.hostSetKey 16 true = State.reset ∧ State.reset.hostSetKey (-1) true = State.reset := by decide
-- V-RESET-1
theorem test_reset_from_faulted :
    ({ State.reset with sp := 3, status := .faulted .stackUnderflow 0x200 0 } : State).hostReset 0x300 =
      State.resetAt 0x300 := by decide
theorem test_withFetchWord :
    (stepped (State.reset.withFetchWord 16 0x6A42)).getV 0xA = 0x42 ∧
    (stepped ((State.resetAt 0xFFFF).withFetchWord 16 0x6A42)).getV 0xA = 0x42 := by decide

/-! ### Witnesses: for each statement with hypotheses, a state and operands that meet them, at the boundaries -/

/-- A state with bytes in memory, in canonical form, I at the last place where three bytes fit. -/
def sTop : State := ((st 0xF033).setI 0xFFD).setV 0 123

theorem sTop_wf : sTop.mem.wf := by decide

theorem st_inv (w : Word) (h : (st w).mem.wf) : (st w).Inv :=
  ⟨h, Nat.zero_le 16, fun k => by simp [st, State.placeWord, State.reset, State.resetAt], trivial⟩

theorem witness_DecodeEncodeRoundTrip : (Instr.drw 15 15 15).wellFormed = true ∧ (Instr.drw 0 0 0).wellFormed = true := by
  decide
theorem witness_EncodeDecodeKeepsOperandBits :
    decode 0x5AB3#16 = some (.seReg 0xA 0xB) ∧ decode 0x812E#16 = some (.shl 1) ∧ decode 0x1FFF#16 = some (.jp 0xFFF) := by
  decide
theorem witness_DecodeAgreesWithOpcodeMap :
    decode 0x8127#16 = some (.subn 1 2) ∧ decode 0x8128#16 = none ∧
    0x8127#16 &&& 0xF00F#16 = 0x8007#16 := by decide
theorem witness_SecondarySelectors :
    fieldG 0x812F#16 = 0x8#4 ∧ fieldG 0xE09E#16 = 0xE#4 ∧ fieldG 0xF0FF#16 = 0xF#4 ∧ fieldG 0x00EE#16 = 0x0#4 ∧
    fieldG 0xD000#16 ∉ [0x0#4, 0x8, 0xE, 0xF] := by decide
theorem witness_IgnoredBitsSelectNothing :
    decode 0x8126#16 = some (.shr 1) ∧ decode 0x8136#16 = some (.shr 1) := by decide
theorem witness_StepRunsTheDecodedInstruction :
    ((State.resetAt 0xFFE).placeWord 0x6001).isRunning ∧ ((State.resetAt 0xFFE).placeWord 0x6001).pc.toNat ≤ 4094 ∧
    decode ((State.resetAt 0xFFE).placeWord 0x6001).fetchWord = some (.ldImm 0 1) := by decide
theorem witness_FetchBoundsAndByteOrder :
    (State.resetAt 0xFFF).isRunning ∧ 4095 ≤ (State.resetAt 0xFFF).pc.toNat ∧ (State.resetAt 0xFFE).isRunning ∧
    (State.resetAt 0xFFE).pc.toNat ≤ 4094 := by decide
theorem witness_UnrecognizedWordFaults :
    State.reset.isRunning ∧ State.reset.pc.toNat ≤ 4094 ∧ decode State.reset.fetchWord = none := by decide
theorem witness_SysPolicyReading :
    (st 0x0123).isRunning ∧ (st 0x0123).pc.toNat ≤ 4094 ∧ fieldG (st 0x0123).fetchWord = 0x0#4 ∧
    (st 0x0123).fetchWord ≠ 0x00E0#16 ∧ (st 0x0123).fetchWord ≠ 0x00EE#16 ∧
    ({ Config.params with sysPolicy := .nop } : Config.Params).sysPolicy = .nop ∧ Config.params.sysPolicy = .fault := by
  decide
theorem witness_FaultsArePrecise : ∃ t, (st 0x00EE).isRunning ∧ step (st 0x00EE) = .next t ∧
    t.status = .faulted .stackUnderflow 0x200 0 := ⟨_, rfl, rfl, rfl⟩
theorem witness_FaultedIsSticky :
    (stepped (st 0x0123)).status = .faulted .illegalOpcode 0x200 0x0123 ∧ ∀ start, HostOp.tick ≠ .reset start :=
  ⟨by decide, fun _ h => nomatch h⟩
theorem witness_StepFaultsExactlyWhen : (st 0x2300).isRunning ∧ (State.resetAt 0xFFFF).isRunning := by decide
theorem witness_StepOutcomeAndTimers :
    (st 0xF10A).isRunning ∧ decode (st 0xF10A).fetchWord = some (.ldVxK 1) ∧ (∀ k < 16, (st 0xF10A).keyDown k = false) ∧
    (stepped (st 0xF10A)).isRunning ∧ (stepped ((st 0xF015).setV 0 5)).dt ≠ ((st 0xF015).setV 0 5).dt ∧
    (stepped ((st 0xF418).setV 4 5)).st ≠ ((st 0xF418).setV 4 5).st := by decide
theorem witness_StepKeepsTheInvariant : ∃ t, (st 0x2300).Inv ∧ step (st 0x2300) = .next t :=
  ⟨_, st_inv _ (by decide), rfl⟩
theorem witness_HostOperationsKeepTheInvariant :
    (st 0xF10A).Inv ∧ ((State.resetAt 0x200).runOps [.load 0x200 [0xF1, 0x0A], .step, .setKey 3 true, .step]).Reachable :=
  ⟨st_inv _ (by decide), _, _, rfl⟩
theorem witness_StackPointerStaysInRange :
    ∃ t, ({ State.reset with sp := 15 } : State).sp ≤ 16 ∧ exec (.call 0x300) { State.reset with sp := 15 } = .next t ∧
      ({ State.reset with sp := 16 } : State).sp = 16 ∧ State.reset.sp = 0 := ⟨_, by decide, rfl, rfl, rfl⟩
theorem witness_CompletedStepBoundsPc : ∃ t, (st 0xBFFF).Inv ∧ step (st 0xBFFF) = .next t ∧ t.isRunning :=
  ⟨_, st_inv _ (by decide), rfl, rfl⟩
theorem witness_WritersOfIndexAndStack :
    (ran (.ldI 0x300) State.reset).i ≠ State.reset.i ∧ (ran (.call 0x300) State.reset).sp ≠ State.reset.sp ∧
    (ran (.call 0x300) State.reset).stack ≠ State.reset.stack := by decide
theorem witness_WritersOfDisplayMemoryAndFlag :
    (ran .cls { State.reset with pix := flipPixel blankPixels 0 0 }).pix ≠ ({ State.reset with pix := flipPixel blankPixels 0 0 } : State).pix ∧
    (ran (.ldBVx 0) sTop).readByte 0xFFD ≠ sTop.readByte 0xFFD ∧
    (ran (.ldImm VF 1) State.reset).getV VF ≠ State.reset.getV VF := by decide
theorem witness_RandomSourceAffectsOnlyRnd :
    ∃ t, (∀ x nn, Instr.drw 0 1 0 ≠ .rnd x nn) ∧ exec (.drw 0 1 0) State.reset = .next t :=
  ⟨_, ⟨fun _ _ => Instr.noConfusion, rfl⟩⟩
theorem witness_CallPushesAndJumps :
    ({ State.reset with sp := 15 } : State).sp < 16 ∧ 16 ≤ ({ State.reset with sp := 16 } : State).sp := by decide
theorem witness_ReturnPopsPc :
    0 < ({ State.reset with sp := 16 } : State).sp ∧ ({ State.reset with sp := 16 } : State).sp ≤ 16 ∧
    0 < ({ State.reset with sp := 1 } : State).sp ∧ State.reset.sp = 0 := by decide
theorem witness_CallsAndReturnsAreLifo :
    State.reset.sp + (List.replicate 16 (State.resetAt 0x300, (0x200 : Addr))).length ≤ 16 ∧
    (List.replicate 16 (State.resetAt 0x400)).length =
      (List.replicate 16 (State.resetAt 0x300, (0x200 : Addr))).length ∧ State.reset.sp = 0 ∧
    ∃ t, callAll (List.replicate 16 (State.resetAt 0x300, (0x200 : Addr))) State.reset = .next t ∧ t.sp = 16 ∧
      (returnAll (List.replicate 16 (State.resetAt 0x400)) t).1 = List.replicate 16 0x302 :=
  ⟨by decide, by decide, rfl, _, rfl, rfl, rfl⟩
theorem witness_SelfJumpLeavesTheState : (st 0x1200).runEnded := by
  unfold State.runEnded
  decide
theorem witness_ComparingSkips :
    (1#4 : BitVec 4) ≠ 0x0#4 ∧ ({ Config.params with strictSkipNibble := true } : Config.Params).strictSkipNibble = true ∧
    (st 0x5AB1).isRunning ∧ (st 0x5AB1).pc.toNat ≤ 4094 ∧ (st 0x5AB1).fetchWord = wordGXYN 0x5 0xA 0xB 1 := by decide
theorem witness_DrawFlipsCoveredPixels : (15 : Nat) < 16 ∧ (State.reset.setI 0xFF1).rangeFits 15 ∧
    (State.reset.setI 0xFFF).rangeFits 0 ∧ (State.reset.setI 0xFFF).rangeFits 1 ∧
    ¬ (State.reset.setI 0xFFF).rangeFits 2 := by
  unfold State.rangeFits
  decide
/-- I points at the byte 0x80, a sprite of one pixel. -/
def sDot : State := (State.reset.setI 0x300).storeBytes 0x300 [0x80]

theorem witness_DrawingTwiceRestores :
    (exec .cls sDot = .next (ran .cls sDot) ∧ ((ran .cls sDot).setI 0x301).pix = (ran .cls sDot).pix ∧
      ((ran .cls sDot).setI 0x301).rangeFits 1 ∧
      ∀ r < 1, ((ran .cls sDot).setI 0x301).readByte (((ran .cls sDot).setI 0x301).i.toNat + r) = 0x00#8) ∧
    let t := ran (.drw 0 1 1) sDot
    let t' := (t.setV 2 64).setPc 0x300
    sDot.rangeFits 1 ∧ exec (.drw 0 1 1) sDot = .next t ∧ pixelAt t.pix 0 0 = true ∧ t.getV VF = 0 ∧
      t'.pix = t.pix ∧ t'.originX 2 = sDot.originX 0 ∧ t'.originY 1 = sDot.originY 1 ∧ t'.rangeFits 1 ∧
      (∀ r < 1, t'.readByte (t'.i.toNat + r) = sDot.readByte (sDot.i.toNat + r)) ∧
      pixelAt (ran (.drw 2 1 1) t').pix 0 0 = false ∧ (ran (.drw 2 1 1) t').getV VF = 1 :=
  ⟨⟨rfl, rfl, Or.inr (by decide), by decide⟩, Or.inr (by decide), rfl, by decide, by decide, rfl, by decide, by decide,
    Or.inr (by decide), by decide, by decide, by decide⟩
theorem witness_KeySkips :
    (((State.reset.setV 3 15).getV 3).toNat < 16 ∧ ((State.reset.setV 3 15).hostSetKey 15 true).key[15] = true) ∧
    (State.reset.setV 3 15).key[15] = false ∧ 16 ≤ ((State.reset.setV 3 16).getV 3).toNat := by decide
theorem witness_KeyWaitTakesLowestKey :
    (State.reset.hostSetKey 15 true).key[(15 : Fin 16)] = true ∧
    (∀ j : Fin 16, j < 15 → (State.reset.hostSetKey 15 true).key[j] = false) ∧
    (∀ j : Fin 16, (st 0xF10A).key[j] = false) ∧ (st 0xF10A).isRunning ∧ (st 0xF10A).pc.toNat ≤ 4094 ∧
    decode (st 0xF10A).fetchWord = some (.ldVxK 1) := by decide
theorem witness_BcdStoresDigits :
    sTop.mem.wf ∧ sTop.i.toNat + 2 < 4096 ∧ 4096 ≤ (sTop.setI 0xFFE).i.toNat + 2 := ⟨sTop_wf, by decide, by decide⟩
theorem witness_StoreRegistersAtI :
    (sTop.setI 0xFF0).mem.wf ∧ (sTop.setI 0xFF0).i.toNat + (15 : RegIdx).val < 4096 ∧
    4096 ≤ (sTop.setI 0xFF1).i.toNat + (15 : RegIdx).val := ⟨sTop_wf, by decide, by decide⟩
theorem witness_LoadRegistersFromI :
    (sTop.setI 0xFFF).i.toNat + (0 : RegIdx).val < 4096 ∧ 4096 ≤ (sTop.setI 0xFFF).i.toNat + (1 : RegIdx).val := by decide
theorem witness_StoreThenLoadRestores : ∃ t, sTop.mem.wf ∧ sTop.i.toNat + (2 : RegIdx).val < 4096 ∧
    exec (.ldMemVx 2) sTop = .next t ∧ t.i = sTop.i ∧ ∀ a, t.readByte a = t.readByte a :=
  ⟨_, sTop_wf, by decide, rfl, rfl, fun _ => rfl⟩
theorem witness_StoredBytesAreFetched :
    (∃ t, { sTop with pc := 0xFFD }.mem.wf ∧ { sTop with pc := 0xFFD }.i.toNat + (1 : RegIdx).val < 4096 ∧
      exec (.ldMemVx 1) { sTop with pc := 0xFFD } = .next t ∧ (0 : Fin 15).val + 1 ≤ (1 : RegIdx).val ∧
      t.pc.toNat = { sTop with pc := 0xFFD }.i.toNat + (0 : Fin 15).val) ∧
    (∃ t, exec (.ldBVx 0) { sTop with pc := 0xFFD } = .next t ∧ t.pc = { sTop with pc := 0xFFD }.i) ∧
    (∃ t, exec (.ldBVx 0) { sTop with pc := 0xFFE } = .next t ∧ t.pc = { sTop with pc := 0xFFE }.i + 1) ∧
    (0 + 1 < [(0x12 : Byte), 0x00].length ∧ State.reset.mem.wf ∧ 0x200 + [(0x12 : Byte), 0x00].length ≤ 4096 ∧
      State.reset.pc.toNat = 0x200 + 0) :=
  ⟨⟨_, sTop_wf, by decide, rfl, by decide, by decide⟩, ⟨_, rfl, rfl⟩, ⟨_, rfl, by decide⟩, by decide⟩
theorem witness_SetKeyWritesOneKey : (0 : Int) ≤ 15 ∧ (15 : Int) ≤ 15 ∧ (-1 : Int) < 0 ∧ (15 : Int) < 16 := by decide
theorem witness_LoadCopiesOrRefuses :
    0xFFF + [(1 : Byte)].length ≤ 4096 ∧ 0 < [(1 : Byte)].length ∧ State.reset.mem.wf ∧
    4096 < 0xFFF + [(1 : Byte), 2].length := by decide

end Sys2Proof.Tests
end

/-! ### What an instruction can do, said once: its faults, its frame, and where PC goes -/

section
namespace Sys2Proof.Machine

/-! #### Frames as equal data -/

/-- The two states hold the same data in one component. -/
def Component.sameIn (s t : State) : Component → Prop
  | .mem => t.mem = s.mem
  | .pc => t.pc = s.pc
  | .v => t.v = s.v
  | .i => t.i = s.i
  | .stack => t.stack = s.stack
  | .sp => t.sp = s.sp
  | .dt => t.dt = s.dt
  | .st => t.st = s.st
  | .key => t.key = s.key
  | .pix => t.pix = s.pix
  | .status => t.status = s.status
  | .draws => t.draws = s.draws

/-- Every component outside `cs` holds the same data: `unchangedBut` for proofs, with memory the same list. -/
def sameBut (cs : List Component) (s t : State) : Prop := ∀ c, c ∉ cs → c.sameIn s t

/-- A frame is twelve facts, one for each component: the form in which `simp` proves one. -/
theorem sameBut_iff {cs : List Component} {s t : State} : sameBut cs s t ↔
    (.mem ∉ cs → t.mem = s.mem) ∧ (.pc ∉ cs → t.pc = s.pc) ∧ (.v ∉ cs → t.v = s.v) ∧ (.i ∉ cs → t.i = s.i) ∧
    (.stack ∉ cs → t.stack = s.stack) ∧ (.sp ∉ cs → t.sp = s.sp) ∧ (.dt ∉ cs → t.dt = s.dt) ∧
    (.st ∉ cs → t.st = s.st) ∧ (.key ∉ cs → t.key = s.key) ∧ (.pix ∉ cs → t.pix = s.pix) ∧
    (.status ∉ cs → t.status = s.status) ∧ (.draws ∉ cs → t.draws = s.draws) := by
  constructor
  · exact fun h => ⟨h .mem, h .pc, h .v, h .i, h .stack, h .sp, h .dt, h .st, h .key, h .pix, h .status, h .draws⟩
  · rintro ⟨hmem, hpc, hv, hi, hstack, hsp, hdt, hst, hkey, hpix, hstatus, hdraws⟩ (_ | _) <;> assumption

theorem sameBut_mono {cs ds : List Component} {s t : State} (hf : sameBut cs s t) (h : cs ⊆ ds) : sameBut ds s t :=
  fun c hc => hf c fun hcs => hc (h hcs)

theorem unchangedBut_of_sameBut {cs : List Component} {s t : State} (hf : sameBut cs s t) : unchangedBut cs s t where
  mem h a := congrArg (Memory.read · a) (hf .mem h)
  pc h := hf .pc h
  v h r := congrArg (·[r]) (hf .v h)
  i h := hf .i h
  stack h k := congrArg (·[k]) (hf .stack h)
  sp h := hf .sp h
  dt h := hf .dt h
  st h := hf .st h
  key h k := congrArg (·[k]) (hf .key h)
  pix h := hf .pix h
  status h := hf .status h
  draws h := hf .draws h

/-- The components an instruction that takes no fault may change. -/
def writes : Instr → List Component
  | .cls => [.pix]
  | .drw _ _ _ => [.v, .pix]
  | .ret => [.pc, .sp]
  | .call _ => [.pc, .stack, .sp]
  | .jp _ | .jpV0 _ | .seImm _ _ | .sneImm _ _ | .seReg _ _ | .sneReg _ _ | .skp _ | .sknp _ => [.pc]
  | .ldI _ | .addIVx _ | .ldFVx _ => [.i]
  | .ldDtVx _ => [.dt]
  | .ldStVx _ => [.st]
  | .ldBVx _ | .ldMemVx _ => [.mem]
  | .rnd _ _ => [.v, .draws]
  | .ldVxK _ => [.v, .pc]
  | .ldImm _ _ | .addImm _ _ | .ldReg _ _ | .or _ _ | .and _ _ | .xor _ _ | .addReg _ _ | .sub _ _ | .shr _ | .subn _ _
  | .shl _ | .ldVxDt _ | .ldVxMem _ => [.v]

/-! #### The instructions with more than one case -/

section
variable {s t : State}

theorem exec_ret_underflows (h : s.sp = 0) : exec .ret s = raise .stackUnderflow 0 s := if_pos h

theorem exec_ret_pops (h : s.sp ≠ 0) : exec .ret s = .next s.popToPc := if_neg h

theorem exec_ret_cases (h : exec .ret s = .next t) :
    (s.sp = 0 ∧ t = s.raiseFault (s.pc - 2) .stackUnderflow 0) ∨ (s.sp ≠ 0 ∧ t = s.popToPc) := by
  by_cases h0 : s.sp = 0
  · exact .inl ⟨h0, Host.Outcome.next.inj (h.symm.trans (exec_ret_underflows h0))⟩
  · exact .inr ⟨h0, Host.Outcome.next.inj (h.symm.trans (exec_ret_pops h0))⟩

theorem exec_call_overflows {nnn : Addr} (h : 16 ≤ s.sp) : exec (.call nnn) s = raise .stackOverflow 16 s := if_pos h

theorem exec_call_pushes {nnn : Addr} (h : s.sp < 16) :
    exec (.call nnn) s = .next ((s.push s.pc).setPc (zextAddr nnn)) := if_neg h.not_ge

theorem exec_call_cases {nnn : Addr} (h : exec (.call nnn) s = .next t) :
    (16 ≤ s.sp ∧ t = s.raiseFault (s.pc - 2) .stackOverflow 16) ∨
    (s.sp < 16 ∧ t = (s.push s.pc).setPc (zextAddr nnn)) := by
  obtain h16 | hlt := le_or_gt 16 s.sp
  · exact .inl ⟨h16, Host.Outcome.next.inj (h.symm.trans (exec_call_overflows h16))⟩
  · exact .inr ⟨hlt, Host.Outcome.next.inj (h.symm.trans (exec_call_pushes hlt))⟩

theorem exec_ldVxK_of_key {x : RegIdx} {k : Nat} (h : s.firstKeyDown = some k) :
    exec (.ldVxK x) s = .next (s.setV x (BitVec.ofNat 8 k)) := by
  change execLdVxK x s = _
  rw [execLdVxK, h]

theorem exec_ldVxK_of_no_key {x : RegIdx} (h : s.firstKeyDown = none) :
    exec (.ldVxK x) s = .next (s.setPc (s.pc - 2)) := by
  change execLdVxK x s = _
  rw [execLdVxK, h]

theorem exec_ldVxK_cases {x : RegIdx} (h : exec (.ldVxK x) s = .next t) :
    (∃ k, s.firstKeyDown = some k ∧ t = s.setV x (BitVec.ofNat 8 k)) ∨
    (s.firstKeyDown = none ∧ t = s.setPc (s.pc - 2)) := by
  cases hk : s.firstKeyDown with
  | some k => exact .inl ⟨k, rfl, Host.Outcome.next.inj (h.symm.trans (exec_ldVxK_of_key hk))⟩
  | none => exact .inr ⟨rfl, Host.Outcome.next.inj (h.symm.trans (exec_ldVxK_of_no_key hk))⟩

end

/-! #### Faults and frames of every instruction -/

/-- The faults an instruction can take, with the value recorded (60_exceptions.md R231). -/
inductive ExecFaults (s : State) : Instr → FaultKind → Nat → Prop
  | underflow (h : s.sp = 0) : ExecFaults s .ret .stackUnderflow 0
  | overflow {nnn : Addr} (h : 16 ≤ s.sp) : ExecFaults s (.call nnn) .stackOverflow 16
  | range {i : Instr} (h : ¬ s.rangeFits (accessLength i)) : ExecFaults s i .memOutOfBounds (max s.i.toNat 4096)

/-- A range instruction faults as `ExecFaults` says, or keeps whatever frame its effect keeps. -/
theorem withRange_fault_or_sameBut {i : Instr} {s e t : State} (h : withRange (accessLength i) s e = .next t)
    (he : sameBut (writes i) s e) :
    (∃ k n, ExecFaults s i k n ∧ t = s.raiseFault (s.pc - 2) k n) ∨ sameBut (writes i) s t := by
  obtain ⟨-, rfl⟩ | ⟨hpos, hout, rfl⟩ := withRange_cases h
  · exact .inr he
  · exact .inl ⟨_, _, .range (by unfold State.rangeFits; omega), rfl⟩

/-- Everything an instruction can do: take one of its faults, or change only the components it writes. -/
theorem exec_fault_or_sameBut {i : Instr} {s t : State} (h : exec i s = .next t) :
    (∃ k n, ExecFaults s i k n ∧ t = s.raiseFault (s.pc - 2) k n) ∨ sameBut (writes i) s t := by
  cases i with
  | ret =>
    obtain ⟨h0, rfl⟩ | ⟨-, rfl⟩ := exec_ret_cases h
    · exact .inl ⟨_, _, .underflow h0, rfl⟩
    · exact .inr (by simp [sameBut_iff, writes])
  | call nnn =>
    obtain ⟨h16, rfl⟩ | ⟨-, rfl⟩ := exec_call_cases h
    · exact .inl ⟨_, _, .overflow h16, rfl⟩
    · exact .inr (by simp [sameBut_iff, writes])
  | ldVxK x =>
    obtain ⟨k, -, rfl⟩ | ⟨-, rfl⟩ := exec_ldVxK_cases h
    · exact .inr (by simp [sameBut_iff, writes])
    · exact .inr (by simp [sameBut_iff, writes])
  | drw x y n => exact withRange_fault_or_sameBut h (by simp [sameBut_iff, writes])
  | ldBVx x => exact withRange_fault_or_sameBut h (by simp [sameBut_iff, writes])
  | ldMemVx x => exact withRange_fault_or_sameBut h (by simp [sameBut_iff, writes])
  | ldVxMem x => exact withRange_fault_or_sameBut h (by simp [sameBut_iff, writes])
  | _ =>
    obtain rfl := Host.Outcome.next.inj h
    exact .inr (by simp [sameBut_iff, writes])

/-- The frame of an instruction whatever happens: a fault taken adds PC and the status. -/
theorem exec_sameBut {i : Instr} {s t : State} (h : exec i s = .next t) : sameBut (.pc :: .status :: writes i) s t := by
  obtain ⟨k, n, -, rfl⟩ | hf := exec_fault_or_sameBut h
  · simp [sameBut_iff]
  · exact sameBut_mono hf fun c hc => .tail _ (.tail _ hc)

end Sys2Proof.Machine
end

/-! ### The invariant: it holds after Reset, and every step keeps it -/

section
namespace Sys2Proof.Machine

theorem State.resetAt_inv (start : Word) : (State.resetAt start).Inv where
  mem_wf := ⟨.nil, fun _ h => nomatch h⟩
  sp_le := Nat.zero_le _
  stack_le k := by simp [State.resetAt]
  status_ok := trivial

section
variable {i : Instr} {s t : State}

/-- Only FX33 and FX55 write memory, and both check first that the bytes lie inside it. -/
theorem exec_keeps_mem_wf (h : exec i s = .next t) (hm : s.mem.wf) : t.mem.wf := by
  cases i with
  | ldBVx x =>
    obtain ⟨hfit, rfl⟩ | ⟨-, -, rfl⟩ := withRange_cases h
    · exact Memory.writeBytes_wf hm _ (by rw [length_bcdDigits]; omega)
    · exact hm
  | ldMemVx x =>
    obtain ⟨hfit, rfl⟩ | ⟨-, -, rfl⟩ := withRange_cases h
    · exact Memory.writeBytes_wf hm _ (by rw [State.length_regsUpTo]; omega)
    · exact hm
  | _ =>
    have hsame : t.mem = s.mem := exec_sameBut h .mem (by simp [writes])
    exact hsame ▸ hm

/-- Only RET and CALL move SP, and CALL checks first that a slot is free. -/
theorem exec_keeps_sp_le (h : exec i s = .next t) (hsp : s.sp ≤ 16) : t.sp ≤ 16 := by
  cases i with
  | ret =>
    obtain ⟨-, rfl⟩ | ⟨-, rfl⟩ := exec_ret_cases h
    · exact hsp
    · rw [State.popToPc_sp]; omega
  | call nnn =>
    obtain ⟨-, rfl⟩ | ⟨hlt, rfl⟩ := exec_call_cases h
    · exact hsp
    · exact hlt
  | _ =>
    have hsame : t.sp = s.sp := exec_sameBut h .sp (by simp [writes])
    exact hsame ▸ hsp

/-- Only CALL writes a stack slot: the PC after the advance. -/
theorem exec_keeps_stack_le (h : exec i s = .next t) {b : Nat} (hstack : ∀ k : Fin 16, (s.stack[k]).toNat ≤ b)
    (hpc : s.pc.toNat ≤ b) (k : Fin 16) : (t.stack[k]).toNat ≤ b := by
  cases i with
  | call nnn =>
    obtain ⟨-, rfl⟩ | ⟨-, rfl⟩ := exec_call_cases h
    · exact hstack k
    · simp only [State.setPc_stack, State.push_stack, Fin.getElem_fin, Vector.getElem_setIfInBounds]
      split
      · exact hpc
      · exact hstack k
  | _ =>
    have hsame : t.stack = s.stack := exec_sameBut h .stack (by simp [writes])
    exact hsame ▸ hstack k

/-- Every fault an instruction takes is a legal record at the address of the instruction (60_exceptions.md R231). -/
theorem faultRecordOk_of_execFaults {k : FaultKind} {n : Nat} {a : Word} (h : ExecFaults s i k n) (ha : a.toNat ≤ 4094) :
    faultRecordOk k a n := by
  cases h with
  | underflow _ => exact ⟨ha, rfl⟩
  | overflow _ => exact ⟨ha, rfl⟩
  | range _ => exact ⟨ha, by omega, by omega⟩

theorem State.advance_pc_sub_two : s.advance.pc - 2 = s.pc := by simp

theorem State.advance_pc_toNat (hpc : s.pc.toNat ≤ 4094) : s.advance.pc.toNat = s.pc.toNat + 2 := by
  rw [State.advance_pc, BitVec.toNat_add_of_lt] <;> simp; omega

/-- An instruction run after the advance leaves the status RUNNING, or the record of its fault. -/
theorem exec_advance_statusOk (hrun : s.isRunning) (hpc : s.pc.toNat ≤ 4094) (h : exec i s.advance = .next t) :
    t.statusOk := by
  obtain ⟨k, n, hk, rfl⟩ | hf := exec_fault_or_sameBut h
  · rw [State.advance_pc_sub_two]
    exact ⟨rfl, faultRecordOk_of_execFaults hk hpc⟩
  · have hsame : t.status = s.status := hf .status (by cases i <;> simp [writes])
    rw [State.statusOk, hsame, hrun]
    trivial

/-- A state that meets the invariant still meets it with a legal fault of its own PC recorded. -/
theorem State.Inv.of_fault (hs : s.Inv) {k : FaultKind} {n : Nat} (hk : faultRecordOk k s.pc n) :
    { s with status := .faulted k s.pc n }.Inv :=
  { hs with status_ok := ⟨rfl, hk⟩ }

/-- The instruction of a step keeps the invariant. -/
theorem exec_advance_inv (hs : s.Inv) (hrun : s.isRunning) (hpc : s.pc.toNat ≤ 4094) (h : exec i s.advance = .next t) :
    t.Inv where
  mem_wf := exec_keeps_mem_wf h hs.mem_wf
  sp_le := exec_keeps_sp_le h hs.sp_le
  stack_le := exec_keeps_stack_le h hs.stack_le (by rw [State.advance_pc_toNat hpc]; omega)
  status_ok := exec_advance_statusOk hrun hpc h

end

/-- Settles O16: the invariant holds after Reset at every start address, 0x200 among them. -/
theorem resetMeetsTheInvariant : Obligations.ResetMeetsTheInvariant :=
  ⟨State.resetAt_inv, State.resetAt_inv _⟩

/-- Settles O17, by the cases of a step: a fetch fault and an unrecognized word leave a legal record, and an instruction
keeps each part of the invariant. -/
theorem stepKeepsTheInvariant : Obligations.StepKeepsTheInvariant := by
  intro s t hs h
  obtain ⟨hrun, ⟨hpc, rfl⟩ | ⟨hpc, hdec, rfl⟩ | ⟨hpc, i, -, hex⟩⟩ := step_next_cases h
  · exact hs.of_fault ⟨rfl, hpc⟩
  · exact hs.of_fault ⟨hpc, by omega, by rw [BitVec.ofNat_toNat, BitVec.setWidth_eq]; exact hdec⟩
  · exact exec_advance_inv hs hrun hpc hex

/-- Settles O19: SP stays at most 16, and both bounds fault. -/
theorem stackPointerStaysInRange : Obligations.StackPointerStaysInRange := by
  refine ⟨fun i s t hsp h => exec_keeps_sp_le h hsp, fun nnn s hsp => ?_, fun s hsp => ?_⟩
  · rw [exec_call_overflows hsp.ge]
    exact raise_faultTaken s _ _
  · rw [exec_ret_underflows hsp]
    exact raise_faultTaken s _ _

/-! ### Where PC goes -/

section
variable {i : Instr} {s t : State}

theorem zextAddr_toNat (nnn : Addr) : (zextAddr nnn).toNat = nnn.toNat := by
  simp [zextAddr, Nat.mod_eq_of_lt (show nnn.toNat < 65536 by omega)]

theorem zextByte_toNat (b : Byte) : (zextByte b).toNat = b.toNat := by
  simp [zextByte, Nat.mod_eq_of_lt (show b.toNat < 65536 by omega)]

/-- A jump target of BNNN is an exact sum (41_control_flow.md R118). -/
theorem zextAddr_add_zextByte_toNat (nnn : Addr) (b : Byte) :
    (zextAddr nnn + zextByte b).toNat = nnn.toNat + b.toNat := by
  rw [BitVec.toNat_add, zextAddr_toNat, zextByte_toNat]
  omega

theorem State.slot_toNat_le {b : Nat} (hstack : ∀ k : Fin 16, (s.stack[k]).toNat ≤ b) (k : Nat) :
    (s.slot k).toNat ≤ b := by
  by_cases hk : k < 16
  · rw [s.slot_of_lt hk]
    exact hstack ⟨k, hk⟩
  · simp [State.slot, hk]

theorem State.skipIf_pc_toNat_le (c : Bool) {b : Nat} (hpc : s.pc.toNat ≤ b) : (s.skipIf c).pc.toNat ≤ b + 2 := by
  rw [State.skipIf_pc]
  split
  · rw [BitVec.toNat_add]; simp; omega
  · omega

/-- An instruction run after the advance leaves PC at most at 0xFFF + 0xFF, what the highest BNNN reaches; a fault taken
and a wait for a key leave it at the instruction. -/
theorem exec_advance_pc_le (hstack : ∀ k : Fin 16, (s.stack[k]).toNat ≤ 0x1000) (hpc : s.pc.toNat ≤ 4094)
    (h : exec i s.advance = .next t) : t.pc.toNat ≤ 0x10FE := by
  have hadv := State.advance_pc_toNat hpc
  have hback : (s.advance.pc - 2).toNat ≤ 0x10FE := by rw [State.advance_pc_sub_two]; omega
  have hskip (c : Bool) : (s.advance.skipIf c).pc.toNat ≤ 0x10FE :=
    (State.skipIf_pc_toNat_le c hadv.le).trans (by omega)
  cases i with
  | ret =>
    obtain ⟨-, rfl⟩ | ⟨-, rfl⟩ := exec_ret_cases h
    · exact hback
    · exact (State.slot_toNat_le (s := s.advance) hstack _).trans (by omega)
  | call nnn =>
    obtain ⟨-, rfl⟩ | ⟨-, rfl⟩ := exec_call_cases h
    · exact hback
    · rw [State.setPc_pc, zextAddr_toNat]; omega
  | jp nnn =>
    obtain rfl := Host.Outcome.next.inj h
    rw [State.setPc_pc, zextAddr_toNat]; omega
  | jpV0 nnn =>
    obtain rfl := Host.Outcome.next.inj h
    rw [State.setPc_pc, zextAddr_add_zextByte_toNat]; omega
  | seImm _ _ | sneImm _ _ | seReg _ _ | sneReg _ _ | skp _ | sknp _ =>
    obtain rfl := Host.Outcome.next.inj h
    exact hskip _
  | ldVxK x =>
    obtain ⟨k, -, rfl⟩ | ⟨-, rfl⟩ := exec_ldVxK_cases h
    · rw [State.setV_pc]; omega
    · exact hback
  | _ =>
    obtain ⟨k, n, -, rfl⟩ | hf := exec_fault_or_sameBut h
    · exact hback
    · have hsame : t.pc = s.advance.pc := hf .pc (by simp [writes])
      rw [hsame]; omega

end

/-- Settles O20: a step that leaves the machine RUNNING ran an instruction, and none leaves PC above 0x10FE. -/
theorem completedStepBoundsPc : Obligations.CompletedStepBoundsPc := by
  intro s t hs h hrun
  obtain ⟨-, ⟨-, rfl⟩ | ⟨-, -, rfl⟩ | ⟨hpc, i, -, hex⟩⟩ := step_next_cases h
  · cases hrun
  · cases hrun
  · exact exec_advance_pc_le hs.stack_le hpc hex

/-! ### Which instructions write a component -/

section
variable {i : Instr} {s t : State}

/-- A component that changed, other than PC and the status, is one the instruction writes. -/
theorem mem_writes_of_changed (h : exec i s = .next t) {c : Component} (hc : ¬ c.sameIn s t)
    (hcs : c ∉ [Component.pc, .status] := by decide) : c ∈ writes i := by
  by_contra hw
  exact hc (exec_sameBut h c (by simp_all))

theorem writers_of_i (hw : .i ∈ writes i) : (∃ nnn, i = .ldI nnn) ∨ ∃ x, i = .addIVx x ∨ i = .ldFVx x := by
  revert hw
  cases i <;> simp [writes]

theorem writers_of_sp (hw : .sp ∈ writes i) : i = .ret ∨ ∃ nnn, i = .call nnn := by
  revert hw
  cases i <;> simp [writes]

theorem writers_of_stack (hw : .stack ∈ writes i) : ∃ nnn, i = .call nnn := by
  revert hw
  cases i <;> simp [writes]

theorem writers_of_pix (hw : .pix ∈ writes i) : i = .cls ∨ ∃ x y n, i = .drw x y n := by
  revert hw
  cases i <;> simp [writes]

theorem writers_of_mem (hw : .mem ∈ writes i) : ∃ x, i = .ldBVx x ∨ i = .ldMemVx x := by
  revert hw
  cases i <;> simp [writes]

theorem writers_of_draws (hw : .draws ∈ writes i) : ∃ x nn, i = .rnd x nn := by
  revert hw
  cases i <;> simp [writes]

end

/-- Settles O21: the writers of I, SP and the stack are read off the frame of every instruction. -/
theorem writersOfIndexAndStack : Obligations.WritersOfIndexAndStack := fun _ _ _ h =>
  ⟨fun hi => writers_of_i (mem_writes_of_changed h hi),
    fun hsp => writers_of_sp (mem_writes_of_changed h hsp),
    fun hstack => writers_of_stack (mem_writes_of_changed h hstack)⟩

section
variable {i : Instr} {s t : State}

theorem eq_of_getV_setV_ne {x r : RegIdx} {b : Byte} (h : (s.setV x b).getV r ≠ s.getV r) : x = r := by
  by_contra hne
  exact h (State.getV_setV_other s (Ne.symm hne) b)

theorem le_of_getV_loadRegs_ne {x r : RegIdx} (h : (s.loadRegs x).getV r ≠ s.getV r) : r ≤ x := by
  by_contra hlt
  exact h (by rw [State.getV_loadRegs, if_neg hlt])

/-- VF changes by a flag (42_alu.md R130, 43_display.md R172), or by an instruction that names VF as its destination. -/
theorem writers_of_flag (h : exec i s = .next t) (hne : t.getV VF ≠ s.getV VF) :
    (∃ x y, i = .addReg x y ∨ i = .sub x y ∨ i = .subn x y) ∨ (∃ x, i = .shr x ∨ i = .shl x) ∨
    (∃ x y n, i = .drw x y n) ∨
    (∃ nn, i = .ldImm VF nn ∨ i = .addImm VF nn ∨ i = .rnd VF nn) ∨
    (∃ y, i = .ldReg VF y ∨ i = .or VF y ∨ i = .and VF y ∨ i = .xor VF y) ∨
    i = .ldVxDt VF ∨ i = .ldVxK VF ∨ i = .ldVxMem VF := by
  cases i with
  | addReg _ _ | sub _ _ | subn _ _ | shr _ | shl _ | drw _ _ _ => simp
  | ldImm x _ | addImm x _ | ldReg x _ | or x _ | and x _ | xor x _ | ldVxDt x | rnd x _ =>
    obtain rfl := Host.Outcome.next.inj h
    obtain rfl : x = VF := eq_of_getV_setV_ne hne
    simp
  | ldVxK x =>
    obtain ⟨k, -, rfl⟩ | ⟨-, rfl⟩ := exec_ldVxK_cases h
    · obtain rfl : x = VF := eq_of_getV_setV_ne hne
      simp
    · exact absurd rfl hne
  | ldVxMem x =>
    obtain ⟨-, rfl⟩ | ⟨-, -, rfl⟩ := withRange_cases h
    · obtain rfl : x = VF := (Fin.last_le_iff (n := 15)).mp (le_of_getV_loadRegs_ne hne)
      simp
    · exact absurd rfl hne
  | _ =>
    have hsame : t.v = s.v := exec_sameBut h .v (by simp [writes])
    exact absurd (congrArg (·[VF]) hsame) hne

end

/-- Settles O22: pixels and memory by the frame of every instruction, VF by the destination of each writer of V. -/
theorem writersOfDisplayMemoryAndFlag : Obligations.WritersOfDisplayMemoryAndFlag := by
  refine fun i s t h => ⟨fun hpix => ?_, fun ⟨a, ha⟩ => ?_, writers_of_flag h⟩
  · exact writers_of_pix (mem_writes_of_changed h hpix)
  · have hframe := unchangedBut_of_sameBut (exec_sameBut h)
    exact writers_of_mem (by_contra fun hw => ha (hframe.mem (by simp [hw]) a))

/-! ### The draw counter -/

section
variable {i : Instr} {s t : State}

/-- A range check does not look at the draw counter. -/
theorem withRange_withDraws {n : Nat} {s e t : State} (d : Nat) (h : withRange n s e = .next t) :
    withRange n { s with draws := d } { e with draws := d } = .next { t with draws := d } := by
  obtain ⟨hfit, rfl⟩ | ⟨hpos, hout, rfl⟩ := withRange_cases h
  · exact withRange_fits hfit
  · exact withRange_faults _ ⟨hpos, hout⟩

theorem State.skipIf_withDraws (c : Bool) (d : Nat) :
    { s with draws := d }.skipIf c = { s.skipIf c with draws := d } := by
  cases c <;> rfl

/-- An instruction that draws no byte does the same whatever the draw counter is. -/
theorem exec_withDraws (hi : ∀ x nn, i ≠ .rnd x nn) (d : Nat) (h : exec i s = .next t) :
    exec i { s with draws := d } = .next { t with draws := d } := by
  cases i with
  | rnd x nn => exact absurd rfl (hi x nn)
  | ret =>
    obtain ⟨h0, rfl⟩ | ⟨h0, rfl⟩ := exec_ret_cases h
    · exact exec_ret_underflows h0
    · exact exec_ret_pops h0
  | call nnn =>
    obtain ⟨h16, rfl⟩ | ⟨hlt, rfl⟩ := exec_call_cases h
    · exact exec_call_overflows h16
    · exact exec_call_pushes hlt
  | ldVxK x =>
    obtain ⟨k, hk, rfl⟩ | ⟨hk, rfl⟩ := exec_ldVxK_cases h
    · exact exec_ldVxK_of_key hk
    · exact exec_ldVxK_of_no_key hk
  | drw _ _ _ | ldBVx _ | ldMemVx _ | ldVxMem _ => exact withRange_withDraws d h
  | seImm _ _ | sneImm _ _ | seReg _ _ | sneReg _ _ | skp _ | sknp _ =>
    obtain rfl := Host.Outcome.next.inj h
    exact congrArg _ (State.skipIf_withDraws _ d)
  | _ =>
    obtain rfl := Host.Outcome.next.inj h
    rfl

end

/-- Settles O23: the counter is outside the frame of every instruction but CXNN, and none but CXNN reads it. -/
theorem randomSourceAffectsOnlyRnd : Obligations.RandomSourceAffectsOnlyRnd := by
  refine fun i s t d hi h => ⟨?_, exec_withDraws hi d h⟩
  by_contra hdraws
  obtain ⟨x, nn, rfl⟩ := writers_of_draws (mem_writes_of_changed h hdraws)
  exact hi x nn rfl

end Sys2Proof.Machine
end

/-! ### Bytes stored are what the next fetch reads -/

section
namespace Sys2Proof.Machine

theorem wordOfBytes_toNat (hi lo : Byte) : (wordOfBytes hi lo).toNat = hi.toNat * 256 + lo.toNat := by
  rw [wordOfBytes, BitVec.toNat_append, ← Nat.shiftLeft_add_eq_or_of_lt lo.isLt, Nat.shiftLeft_eq]

theorem State.fetchWord_toNat (s : State) :
    s.fetchWord.toNat = (s.readByte s.pc.toNat).toNat * 256 + (s.readByte (s.pc.toNat + 1)).toNat :=
  wordOfBytes_toNat _ _

section
variable {s t : State}

/-- A fetch inside a run of bytes just stored: the byte at the lower address is the high one (20_memory.md R51). -/
theorem State.fetchWord_storeBytes_toNat (hm : s.mem.wf) {a k : Nat} {bs : List Byte} (hk : k + 1 < bs.length)
    (hpc : s.pc.toNat = a + k) : (s.storeBytes a bs).fetchWord.toNat = bs[k].toNat * 256 + bs[k + 1].toNat := by
  rw [State.fetchWord_toNat, State.storeBytes_pc, hpc, s.readByte_storeBytes_at hm, Nat.add_assoc,
    s.readByte_storeBytes_at hm]

theorem exec_ldMemVx_stores {x : RegIdx} (hfit : s.i.toNat + x.val < 4096) :
    exec (.ldMemVx x) s = .next (s.storeBytes s.i.toNat (s.regsUpTo x)) := withRange_fits (.inr hfit)

theorem exec_ldBVx_stores {x : RegIdx} (hfit : s.i.toNat + 2 < 4096) :
    exec (.ldBVx x) s = .next (s.storeBytes s.i.toNat (bcdDigits (s.getV x))) := withRange_fits (.inr hfit)

theorem State.hostLoad_stores {base : Nat} {bytes : List Byte} (hfit : base + bytes.length ≤ 4096) :
    s.hostLoad base bytes = (.ok, s.storeBytes base bytes) := if_neg hfit.not_gt

/-- No digit of a byte is cut by the 8 bits it is stored in (45_memory_transfer.md R210). -/
theorem bcdDigits_getElem_toNat (b : Byte) {k : Nat} (hk : k < (bcdDigits b).length) :
    (bcdDigits b)[k].toNat = [b.toNat / 100, b.toNat / 10 % 10, b.toNat % 10][k] := by
  match k, hk with
  | 0, _ | 1, _ | 2, _ => exact Nat.mod_eq_of_lt (by omega)

theorem exec_ldMemVx_fetchWord {x : RegIdx} {k : Fin 15} (hm : s.mem.wf) (hfit : s.i.toNat + x.val < 4096)
    (h : exec (.ldMemVx x) s = .next t) (hk : k.val + 1 ≤ x.val) (hpc : t.pc.toNat = s.i.toNat + k.val) :
    t.fetchWord.toNat = (s.getV k.castSucc).toNat * 256 + (s.getV k.succ).toNat := by
  obtain rfl := Host.Outcome.next.inj ((exec_ldMemVx_stores hfit).symm.trans h)
  rw [State.fetchWord_storeBytes_toNat hm (by rw [State.length_regsUpTo]; omega) hpc, State.getElem_regsUpTo,
    State.getElem_regsUpTo]
  rfl

theorem exec_ldBVx_fetchWord {x : RegIdx} {k : Nat} (hm : s.mem.wf) (hfit : s.i.toNat + 2 < 4096)
    (h : exec (.ldBVx x) s = .next t) (hk : k + 1 < (bcdDigits (s.getV x)).length)
    (hpc : t.pc.toNat = s.i.toNat + k) :
    t.fetchWord.toNat = (bcdDigits (s.getV x))[k].toNat * 256 + (bcdDigits (s.getV x))[k + 1].toNat := by
  obtain rfl := Host.Outcome.next.inj ((exec_ldBVx_stores hfit).symm.trans h)
  exact State.fetchWord_storeBytes_toNat hm hk hpc

end

/-- Settles O49: all three store a run of bytes, and a fetch inside the run reads two of them. -/
theorem storedBytesAreFetched : Obligations.StoredBytesAreFetched := by
  refine ⟨fun x s t k hm hfit h hk hpc => exec_ldMemVx_fetchWord hm hfit h hk hpc,
    fun x s t hm hfit h => ⟨fun hpc => ?_, fun hpc => ?_⟩, fun s base bytes k hk hm hfit hpc => ?_⟩
  · have hk : 0 + 1 < (bcdDigits (s.getV x)).length := by rw [length_bcdDigits]; decide
    rw [exec_ldBVx_fetchWord hm hfit h hk (by rw [hpc]; rfl), bcdDigits_getElem_toNat, bcdDigits_getElem_toNat]
    rfl
  · have hk : 1 + 1 < (bcdDigits (s.getV x)).length := by rw [length_bcdDigits]; decide
    have hi : (s.i + 1).toNat = s.i.toNat + 1 := BitVec.toNat_add_of_lt (by simp; omega)
    rw [exec_ldBVx_fetchWord hm hfit h hk (by rw [hpc, hi]), bcdDigits_getElem_toNat, bcdDigits_getElem_toNat]
    rfl
  · rw [State.hostLoad_stores hfit]
    exact State.fetchWord_storeBytes_toNat hm hk hpc

end Sys2Proof.Machine
end

/-! ### Decoder and encoder agree -/

section
namespace Sys2Proof

section
variable {w : Word} {i : Instr} {strict : Bool}

/-! #### A word built again from its fields (30_encoding.md R71) -/

theorem wordGXYN_eq {g n : BitVec 4} (hg : fieldG w = g) (hn : fieldN w = n) :
    wordGXYN g (fieldX w) (fieldY w) n = w := by
  subst hg hn
  exact (word_eq_nibbles w).symm

theorem wordGXNN_eq {g : BitVec 4} {nn : Byte} (hg : fieldG w = g) (hnn : fieldNN w = nn) :
    wordGXNN g (fieldX w) nn = w := by
  subst hg hnn
  have hGX : fieldG w ++ regField (fieldX w) = w.extractLsb' 8 8 :=
    BitVec.extractLsb'_append_extractLsb'_eq_extractLsb' rfl
  rw [wordGXNN, hGX]
  exact (BitVec.extractLsb'_append_extractLsb'_eq_extractLsb' rfl).trans BitVec.extractLsb'_eq_self

theorem wordGNNN_eq {g : BitVec 4} (hg : fieldG w = g) : wordGNNN g (fieldNNN w) = w := by
  subst hg
  exact (BitVec.extractLsb'_append_extractLsb'_eq_extractLsb' rfl).trans BitVec.extractLsb'_eq_self

/-! #### A word under the masks of the bits a decoder reads (R73) -/

theorem word_and_nibbles (w : Word) (mg mx my mn : BitVec 4) : w &&& (mg ++ mx ++ my ++ mn) =
    (fieldG w &&& mg) ++ (regField (fieldX w) &&& mx) ++ (regField (fieldY w) &&& my) ++ (fieldN w &&& mn) := by
  conv_lhs => rw [word_eq_nibbles w]
  rw [BitVec.and_append, BitVec.and_append, BitVec.and_append]

theorem wordGXYN_eq_and_FFF0 {g : BitVec 4} (hg : fieldG w = g) :
    wordGXYN g (fieldX w) (fieldY w) 0 = w &&& 0xFFF0#16 := by
  subst hg
  refine ((word_and_nibbles w (.allOnes 4) (.allOnes 4) (.allOnes 4) 0#4).trans ?_).symm
  rw [BitVec.and_allOnes, BitVec.and_allOnes, BitVec.and_allOnes, BitVec.and_zero]
  rfl

theorem wordGXYN_eq_and_FF0F {g n : BitVec 4} (hg : fieldG w = g) (hn : fieldN w = n) :
    wordGXYN g (fieldX w) 0 n = w &&& 0xFF0F#16 := by
  subst hg hn
  refine ((word_and_nibbles w (.allOnes 4) (.allOnes 4) 0#4 (.allOnes 4)).trans ?_).symm
  rw [BitVec.and_allOnes, BitVec.and_allOnes, BitVec.and_zero, BitVec.and_allOnes]
  rfl

/-! #### The groups with a decoder of their own (R74, R77 to R79) -/

theorem decodeWith_group0 (hG : fieldG w = 0x0#4) : decodeWith strict w = decodeGroup0 w := by
  simp [decodeWith, hG]

theorem decodeWith_group8 (hG : fieldG w = 0x8#4) : decodeWith strict w = decodeGroup8 w := by
  simp [decodeWith, hG]

theorem decodeWith_groupE (hG : fieldG w = 0xE#4) : decodeWith strict w = decodeGroupE w := by
  simp [decodeWith, hG]

theorem decodeWith_groupF (hG : fieldG w = 0xF#4) : decodeWith strict w = decodeGroupF w := by
  simp [decodeWith, hG]

/-! #### Decode of encode -/

/-- The decoder reads back the fields the encoder wrote, format by format (R71, R76). -/
theorem decodeWith_encode (hi : i.wellFormed = true) : decodeWith strict (encode i) = some i := by
  cases i with
  | cls | ret => rfl
  | jp | call | ldI | jpV0 => simp [encode, decodeWith, fieldG_GNNN, fieldNNN_GNNN]
  | seImm | sneImm | ldImm | addImm | rnd => simp [encode, decodeWith, fieldG_GXNN, fieldX_GXNN, fieldNN_GXNN]
  | seReg | sneReg =>
    simp [encode, decodeWith, skipNibbleOk, fieldG_GXYN, fieldX_GXYN, fieldY_GXYN, fieldN_GXYN]
  | ldReg | or | and | xor | addReg | sub | shr | subn | shl =>
    simp [encode, decodeWith_group8, decodeGroup8, fieldG_GXYN, fieldX_GXYN, fieldY_GXYN, fieldN_GXYN]
  | drw x y n =>
    have hn : n % 16 = n := Nat.mod_eq_of_lt (of_decide_eq_true hi)
    simp [encode, decodeWith, fieldG_GXYN, fieldX_GXYN, fieldY_GXYN, fieldN_GXYN, hn]
  | skp | sknp => simp [encode, decodeWith_groupE, decodeGroupE, fieldG_GXNN, fieldX_GXNN, fieldNN_GXNN]
  | ldVxDt | ldVxK | ldDtVx | ldStVx | addIVx | ldFVx | ldBVx | ldMemVx | ldVxMem =>
    simp [encode, decodeWith_groupF, decodeGroupF, fieldG_GXNN, fieldX_GXNN, fieldNN_GXNN]

/-! #### Encode of decode -/

/-- The bits of its word that the decoder reads, to select the instruction or as operands (R73). -/
def Instr.readMask : Instr → Word
  | .seReg _ _ | .sneReg _ _ => 0xFFF0#16
  | .shr _ | .shl _ => 0xFF0F#16
  | _ => 0xFFFF#16

/-- What holds of every decoded instruction: its operands fit their fields, and encoding puts each bit the decoder read
back in its place, the ignored ones as 0 (R71, R73, R84). -/
structure Instr.ReadFrom (i : Instr) (w : Word) : Prop where
  wellFormed : i.wellFormed = true
  encode_eq : encode i = w &&& i.readMask

theorem readFrom_of_decodeGroup0 (h : decodeGroup0 w = some i) : i.ReadFrom w := by
  unfold decodeGroup0 at h
  split_ifs at h with hcls hret
  · cases h
    exact ⟨rfl, hcls ▸ rfl⟩
  · cases h
    exact ⟨rfl, hret ▸ rfl⟩

theorem readFrom_of_decodeGroup8 (hG : fieldG w = 0x8#4) (h : decodeGroup8 w = some i) : i.ReadFrom w := by
  unfold decodeGroup8 at h
  split at h
  case h_10 => cases h
  all_goals
    rename_i hN
    obtain ⟨-, hN⟩ := BitVec.toNat_eq_nat.mp hN
    cases h
  case h_7 | h_9 => -- SHR and SHL ignore Y
    exact ⟨rfl, wordGXYN_eq_and_FF0F hG hN⟩
  all_goals exact ⟨rfl, (wordGXYN_eq hG hN).trans BitVec.and_allOnes.symm⟩

theorem readFrom_of_decodeGroupE (hG : fieldG w = 0xE#4) (h : decodeGroupE w = some i) : i.ReadFrom w := by
  unfold decodeGroupE at h
  split_ifs at h with hNN hNN
  all_goals
    cases h
    exact ⟨rfl, (wordGXNN_eq hG hNN).trans BitVec.and_allOnes.symm⟩

theorem readFrom_of_decodeGroupF (hG : fieldG w = 0xF#4) (h : decodeGroupF w = some i) : i.ReadFrom w := by
  unfold decodeGroupF at h
  split_ifs at h with hNN hNN hNN hNN hNN hNN hNN hNN hNN
  all_goals
    cases h
    exact ⟨rfl, (wordGXNN_eq hG hNN).trans BitVec.and_allOnes.symm⟩

theorem readFrom_of_decodeWith (h : decodeWith strict w = some i) : i.ReadFrom w := by
  unfold decodeWith at h
  split at h
  case h_17 => cases h
  all_goals
    rename_i hG
    obtain ⟨-, hG⟩ := BitVec.toNat_eq_nat.mp hG
  case h_1 => exact readFrom_of_decodeGroup0 h
  case h_9 => exact readFrom_of_decodeGroup8 hG h
  case h_15 => exact readFrom_of_decodeGroupE hG h
  case h_16 => exact readFrom_of_decodeGroupF hG h
  case h_6 | h_10 => -- groups 5 and 9 ignore N
    split at h
    · cases h
      exact ⟨rfl, wordGXYN_eq_and_FFF0 hG⟩
    · cases h
  all_goals cases h
  case h_2 | h_3 | h_11 | h_12 => -- the words G NNN of groups 1, 2, A and B
    exact ⟨rfl, (wordGNNN_eq hG).trans BitVec.and_allOnes.symm⟩
  case h_4 | h_5 | h_7 | h_8 | h_13 => -- the words G X NN of groups 3, 4, 6, 7 and C
    exact ⟨rfl, (wordGXNN_eq hG rfl).trans BitVec.and_allOnes.symm⟩
  case h_14 => -- the words G X Y N of group D
    have hN : fieldN w = BitVec.ofNat 4 (fieldN w).toNat := (BitVec.toNat_eq_nat.mp rfl).2
    exact ⟨decide_eq_true (fieldN w).isLt, (wordGXYN_eq hG hN).trans BitVec.and_allOnes.symm⟩

/-! #### Which words are instructions (R74, R77 to R80) -/

theorem decodeGroup0_isSome_iff : (decodeGroup0 w).isSome = true ↔ w = 0x00E0#16 ∨ w = 0x00EE#16 := by
  unfold decodeGroup0
  split_ifs <;> simp [*]

theorem decodeGroup8_isSome_iff : (decodeGroup8 w).isSome = true ↔
    fieldN w ∈ [0x0#4, 0x1, 0x2, 0x3, 0x4, 0x5, 0x6, 0x7, 0xE] := by
  unfold decodeGroup8
  simp only [List.mem_cons, ← BitVec.toNat_inj]
  split <;> simp_all

theorem decodeGroupE_isSome_iff : (decodeGroupE w).isSome = true ↔ fieldNN w ∈ [0x9E#8, 0xA1] := by
  unfold decodeGroupE
  split_ifs <;> simp [*]

theorem decodeGroupF_isSome_iff : (decodeGroupF w).isSome = true ↔
    fieldNN w ∈ [0x07#8, 0x0A, 0x15, 0x18, 0x1E, 0x29, 0x33, 0x55, 0x65] := by
  unfold decodeGroupF
  split_ifs <;> simp [*]

/-- A word of any other group is an instruction, whatever its other bits (STRICT_SKIP_NIBBLE = false). -/
theorem decode_isSome_of_other_group (hG : fieldG w ∉ [0x0#4, 0x8, 0xE, 0xF]) : (decode w).isSome = true := by
  simp only [List.mem_cons, not_or] at hG
  obtain ⟨h0, h8, hE, hF, -⟩ := hG
  unfold decode decodeWith
  split
  case h_1 hg => exact absurd (BitVec.eq_of_toNat_eq hg) h0
  case h_9 hg => exact absurd (BitVec.eq_of_toNat_eq hg) h8
  case h_15 hg => exact absurd (BitVec.eq_of_toNat_eq hg) hE
  case h_16 hg => exact absurd (BitVec.eq_of_toNat_eq hg) hF
  case h_17 => -- no seventeenth group
    simp only [imp_false] at *
    bv_omega
  all_goals rfl

/-! #### Words with ignored bits, and STRICT_SKIP_NIBBLE (R73, R75) -/

theorem decode_8XY6 (x y : RegIdx) : decode (wordGXYN 0x8 x y 0x6) = some (.shr x) := by
  simp [decode, decodeWith_group8, decodeGroup8, fieldG_GXYN, fieldX_GXYN, fieldN_GXYN]

theorem decode_8XYE (x y : RegIdx) : decode (wordGXYN 0x8 x y 0xE) = some (.shl x) := by
  simp [decode, decodeWith_group8, decodeGroup8, fieldG_GXYN, fieldX_GXYN, fieldN_GXYN]

theorem decodeWith_false_5XYN (x y : RegIdx) (n : BitVec 4) :
    decodeWith false (wordGXYN 0x5 x y n) = some (.seReg x y) := by
  simp [decodeWith, skipNibbleOk, fieldG_GXYN, fieldX_GXYN, fieldY_GXYN]

theorem decodeWith_false_9XYN (x y : RegIdx) (n : BitVec 4) :
    decodeWith false (wordGXYN 0x9 x y n) = some (.sneReg x y) := by
  simp [decodeWith, skipNibbleOk, fieldG_GXYN, fieldX_GXYN, fieldY_GXYN]

/-- Outside groups 5 and 9 the parameter is not looked at. -/
theorem decodeWith_true_of_other_group (h5 : fieldG w ≠ 0x5#4) (h9 : fieldG w ≠ 0x9#4) :
    decodeWith true w = decodeWith false w := by
  unfold decodeWith
  split
  case h_6 hg => exact absurd (BitVec.eq_of_toNat_eq hg) h5
  case h_10 hg => exact absurd (BitVec.eq_of_toNat_eq hg) h9
  all_goals rfl

theorem decodeWith_true_of_nibble_eq_zero (hN : fieldN w = 0x0#4) : decodeWith true w = decodeWith false w := by
  simp [decodeWith, skipNibbleOk, hN]

theorem decodeWith_true_of_nibble_ne_zero (hG : fieldG w = 0x5#4 ∨ fieldG w = 0x9#4) (hN : fieldN w ≠ 0x0#4) :
    decodeWith true w = none := by
  obtain hG | hG := hG <;> simp [decodeWith, skipNibbleOk, hG, hN]

theorem decodeWith_true (w : Word) : decodeWith true w =
    if (fieldG w = 0x5#4 ∨ fieldG w = 0x9#4) ∧ fieldN w ≠ 0x0#4 then none else decodeWith false w := by
  split
  case isTrue h =>
    obtain ⟨hG, hN⟩ := h
    exact decodeWith_true_of_nibble_ne_zero hG hN
  case isFalse h =>
    obtain hG | hN := not_and_or.mp h
    · obtain ⟨h5, h9⟩ := not_or.mp hG
      exact decodeWith_true_of_other_group h5 h9
    · exact decodeWith_true_of_nibble_eq_zero (not_ne_iff.mp hN)

end

/-- Settles O1: each format of word gives back the fields that were written into it. -/
theorem decodeEncodeRoundTrip : Obligations.DecodeEncodeRoundTrip := fun _ hi => decodeWith_encode hi

/-- Settles O2: encoding a decoded instruction keeps the bits of `Instr.readMask`, which is every bit but for four
instructions. -/
theorem encodeDecodeKeepsOperandBits : Obligations.EncodeDecodeKeepsOperandBits := by
  intro w i h
  obtain ⟨hwf, henc⟩ := readFrom_of_decodeWith h
  refine ⟨hwf, henc.trans ?_⟩
  cases i with
  | seReg | sneReg | shr | shl => rfl
  | _ => exact BitVec.and_allOnes

/-- Settles O4: the four groups with selectors one by one, and all the others at once. -/
theorem secondarySelectors : Obligations.SecondarySelectors := by
  refine fun w => ⟨fun hG => ?_, fun hG => ?_, fun hG => ?_, fun hG => ?_, decode_isSome_of_other_group⟩
  · rw [decode, decodeWith_group8 hG, decodeGroup8_isSome_iff]
  · rw [decode, decodeWith_groupE hG, decodeGroupE_isSome_iff]
  · rw [decode, decodeWith_groupF hG, decodeGroupF_isSome_iff]
  · rw [decode, decodeWith_group0 hG, decodeGroup0_isSome_iff]

/-- Settles O5: two words of one instruction are both its encoding, unless it is one of the four that ignore bits. -/
theorem ignoredBitsSelectNothing : Obligations.IgnoredBitsSelectNothing := by
  refine ⟨fun x y => ⟨decode_8XY6 x y, decode_8XYE x y⟩,
    fun x y n => ⟨decodeWith_false_5XYN x y n, decodeWith_false_9XYN x y n⟩, fun w w' i h h' => ?_⟩
  obtain ⟨-, hw⟩ := encodeDecodeKeepsOperandBits w i h
  obtain ⟨-, hw'⟩ := encodeDecodeKeepsOperandBits w' i h'
  cases i with
  | shr x => exact .inl ⟨x, .inl rfl⟩
  | shl x => exact .inl ⟨x, .inr rfl⟩
  | seReg x y => exact .inr (.inl ⟨x, y, .inl rfl⟩)
  | sneReg x y => exact .inr (.inl ⟨x, y, .inr rfl⟩)
  | _ => exact .inr (.inr (hw.symm.trans hw'))

/-- Settles O6: the parameter is looked at in groups 5 and 9 only, and there it asks for N = 0. -/
theorem strictSkipNibbleReading : Obligations.StrictSkipNibbleReading :=
  ⟨rfl, fun x y n => ⟨decodeWith_false_5XYN x y n, decodeWith_false_9XYN x y n⟩, decodeWith_true⟩

/-- Settles O7, by running the decoder on the eleven words. -/
theorem sampleWordsDecode : Obligations.SampleWordsDecode := by
  unfold Obligations.SampleWordsDecode
  decide

end Sys2Proof
end

/-! ### The decoder is the opcode map -/

section
namespace Sys2Proof

section
variable {w : Word} {i : Instr} {r q : OpcodeRow}

/-! #### A word under the masks of the map (30_encoding.md R76) -/

theorem word_and_F000 (w : Word) : w &&& 0xF000#16 = wordGXYN (fieldG w) 0 0 0 := by
  refine (word_and_nibbles w (.allOnes 4) 0#4 0#4 0#4).trans ?_
  rw [BitVec.and_allOnes, BitVec.and_zero, BitVec.and_zero, BitVec.and_zero]
  rfl

theorem word_and_F00F (w : Word) : w &&& 0xF00F#16 = wordGXYN (fieldG w) 0 0 (fieldN w) := by
  refine (word_and_nibbles w (.allOnes 4) 0#4 0#4 (.allOnes 4)).trans ?_
  rw [BitVec.and_allOnes, BitVec.and_zero, BitVec.and_zero, BitVec.and_allOnes]
  rfl

theorem word_and_F0FF (w : Word) : w &&& 0xF0FF#16 = wordGXNN (fieldG w) 0 (fieldNN w) := by
  have hmask : 0xF0FF#16 = BitVec.allOnes 4 ++ 0#4 ++ BitVec.allOnes 8 := rfl
  calc w &&& 0xF0FF#16 = wordGXNN (fieldG w) (fieldX w) (fieldNN w) &&& 0xF0FF#16 := by rw [wordGXNN_eq rfl rfl]
    _ = (fieldG w &&& BitVec.allOnes 4) ++ (regField (fieldX w) &&& 0#4) ++ (fieldNN w &&& BitVec.allOnes 8) := by
      rw [wordGXNN, hmask, BitVec.and_append, BitVec.and_append]
    _ = wordGXNN (fieldG w) 0 (fieldNN w) := by
      rw [BitVec.and_allOnes, BitVec.and_zero, BitVec.and_allOnes]
      rfl

/-! #### A decoded instruction stands in a row its word matches -/

/-- The bits that select the instruction: the mask of its row of the map (R76). -/
def Instr.selectorMask : Instr → Word
  | .cls | .ret => 0xFFFF#16
  | .ldReg _ _ | .or _ _ | .and _ _ | .xor _ _ | .addReg _ _ | .sub _ _ | .shr _ | .subn _ _ | .shl _ => 0xF00F#16
  | .skp _ | .sknp _ | .ldVxDt _ | .ldVxK _ | .ldDtVx _ | .ldStVx _ | .addIVx _ | .ldFVx _ | .ldBVx _ | .ldMemVx _
  | .ldVxMem _ => 0xF0FF#16
  | _ => 0xF000#16

/-- The row an instruction stands in. -/
def Instr.opcodeRow (i : Instr) : OpcodeRow := ⟨i.mnemonic, encode i &&& i.selectorMask, i.selectorMask⟩

/-- The selecting bits of an encoding do not depend on its operands, and with the mnemonic they are a row of the map. -/
theorem Instr.opcodeRow_mem (i : Instr) : i.opcodeRow ∈ opcodeMap := by
  unfold Instr.opcodeRow
  cases i with
  | cls | ret => decide
  | jp | call | ldI | jpV0 =>
    simp only [Instr.mnemonic, Instr.selectorMask, encode, word_and_F000, fieldG_GNNN]
    decide
  | seImm | sneImm | ldImm | addImm | rnd =>
    simp only [Instr.mnemonic, Instr.selectorMask, encode, word_and_F000, fieldG_GXNN]
    decide
  | seReg | sneReg | drw =>
    simp only [Instr.mnemonic, Instr.selectorMask, encode, word_and_F000, fieldG_GXYN]
    decide
  | ldReg | or | and | xor | addReg | sub | shr | subn | shl =>
    simp only [Instr.mnemonic, Instr.selectorMask, encode, word_and_F00F, fieldG_GXYN, fieldN_GXYN]
    decide
  | skp | sknp | ldVxDt | ldVxK | ldDtVx | ldStVx | addIVx | ldFVx | ldBVx | ldMemVx | ldVxMem =>
    simp only [Instr.mnemonic, Instr.selectorMask, encode, word_and_F0FF, fieldG_GXNN, fieldNN_GXNN]
    decide

/-- The selecting bits are among those the decoder reads. -/
theorem Instr.readMask_and_selectorMask (i : Instr) : i.readMask &&& i.selectorMask = i.selectorMask := by
  cases i with
  | seReg | sneReg => exact (by decide : 0xFFF0#16 &&& 0xF000#16 = 0xF000#16)
  | shr | shl => exact (by decide : 0xFF0F#16 &&& 0xF00F#16 = 0xF00F#16)
  | _ => exact BitVec.allOnes_and

theorem Instr.ReadFrom.matchesWord (h : i.ReadFrom w) : i.opcodeRow.matchesWord w :=
  calc w &&& i.selectorMask = w &&& i.readMask &&& i.selectorMask := by
        rw [BitVec.and_assoc, i.readMask_and_selectorMask]
    _ = encode i &&& i.selectorMask := by rw [h.encode_eq]

/-! #### No word matches two rows -/

/-- Two rows of the map differ in a bit that both masks look at. -/
theorem opcodeMap_pairwise : opcodeMap.Pairwise fun r q => r.pattern &&& q.mask ≠ q.pattern &&& r.mask := by decide

theorem pattern_and_mask_eq_of_matchesWord (hr : r.matchesWord w) (hq : q.matchesWord w) :
    r.pattern &&& q.mask = q.pattern &&& r.mask := by
  rw [← hr, ← hq, BitVec.and_assoc, BitVec.and_assoc, BitVec.and_comm r.mask]

theorem opcodeRow_eq_of_matchesWord (hr : r ∈ opcodeMap) (hq : q ∈ opcodeMap) (hrw : r.matchesWord w)
    (hqw : q.matchesWord w) : r = q := by
  by_contra hne
  have hsymm : Std.Symm fun r q : OpcodeRow => r.pattern &&& q.mask ≠ q.pattern &&& r.mask := ⟨fun _ _ => Ne.symm⟩
  exact opcodeMap_pairwise.forall hr hq hne (pattern_and_mask_eq_of_matchesWord hrw hqw)

/-! #### A word that matches a row is an instruction -/

theorem fieldG_eq_of_matchesWord (hm : fieldG r.mask = 0xF#4) (h : r.matchesWord w) : fieldG w = fieldG r.pattern := by
  have hand : fieldG (w &&& r.mask) = fieldG w &&& fieldG r.mask := BitVec.extractLsb'_and
  rw [← h, hand, hm]
  exact BitVec.and_allOnes.symm

theorem fieldN_eq_of_matchesWord (hm : fieldN r.mask = 0xF#4) (h : r.matchesWord w) : fieldN w = fieldN r.pattern := by
  have hand : fieldN (w &&& r.mask) = fieldN w &&& fieldN r.mask := BitVec.extractLsb'_and
  rw [← h, hand, hm]
  exact BitVec.and_allOnes.symm

theorem fieldNN_eq_of_matchesWord (hm : fieldNN r.mask = 0xFF#8) (h : r.matchesWord w) :
    fieldNN w = fieldNN r.pattern := by
  have hand : fieldNN (w &&& r.mask) = fieldNN w &&& fieldNN r.mask := BitVec.extractLsb'_and
  rw [← h, hand, hm]
  exact BitVec.and_allOnes.symm

theorem eq_pattern_of_matchesWord (hm : r.mask = 0xFFFF#16) (h : r.matchesWord w) : w = r.pattern := by
  rw [← h, hm]
  exact BitVec.and_allOnes.symm

/-- Every row looks at the whole group; in a group with selectors it looks at the whole selector too, and its own is one
of those the decoder knows (R74, R77 to R79). -/
theorem opcodeMap_selectors : ∀ r ∈ opcodeMap, fieldG r.mask = 0xF#4 ∧
    (fieldG r.pattern = 0x0#4 → r.mask = 0xFFFF#16 ∧ (r.pattern = 0x00E0#16 ∨ r.pattern = 0x00EE#16)) ∧
    (fieldG r.pattern = 0x8#4 → fieldN r.mask = 0xF#4 ∧
      fieldN r.pattern ∈ [0x0#4, 0x1, 0x2, 0x3, 0x4, 0x5, 0x6, 0x7, 0xE]) ∧
    (fieldG r.pattern = 0xE#4 → fieldNN r.mask = 0xFF#8 ∧ fieldNN r.pattern ∈ [0x9E#8, 0xA1]) ∧
    (fieldG r.pattern = 0xF#4 → fieldNN r.mask = 0xFF#8 ∧
      fieldNN r.pattern ∈ [0x07#8, 0x0A, 0x15, 0x18, 0x1E, 0x29, 0x33, 0x55, 0x65]) := by decide

theorem decode_isSome_of_matchesWord (hr : r ∈ opcodeMap) (h : r.matchesWord w) : (decode w).isSome = true := by
  obtain ⟨hmask, h0, h8, hE, hF⟩ := opcodeMap_selectors r hr
  obtain ⟨of8, ofE, ofF, of0, ofOther⟩ := secondarySelectors w
  rw [← fieldG_eq_of_matchesWord hmask h] at h0 h8 hE hF
  by_cases hG : fieldG w ∈ [0x0#4, 0x8, 0xE, 0xF]
  · simp only [List.mem_cons, List.not_mem_nil, or_false] at hG
    obtain hG | hG | hG | hG := hG
    · obtain ⟨hm, hp⟩ := h0 hG
      exact (of0 hG).mpr (eq_pattern_of_matchesWord hm h ▸ hp)
    · obtain ⟨hm, hp⟩ := h8 hG
      exact (of8 hG).mpr (fieldN_eq_of_matchesWord hm h ▸ hp)
    · obtain ⟨hm, hp⟩ := hE hG
      exact (ofE hG).mpr (fieldNN_eq_of_matchesWord hm h ▸ hp)
    · obtain ⟨hm, hp⟩ := hF hG
      exact (ofF hG).mpr (fieldNN_eq_of_matchesWord hm h ▸ hp)
  · exact ofOther hG

end

/-- Settles O3: a decoded word matches the row of its instruction, a word that matches a row decodes, and two rows
differ in a bit both look at. -/
theorem decodeAgreesWithOpcodeMap : Obligations.DecodeAgreesWithOpcodeMap := by
  refine ⟨fun w i h => ⟨i.opcodeRow, i.opcodeRow_mem, rfl, (readFrom_of_decodeWith h).matchesWord⟩,
    fun w hnone r hr hm => ?_, fun w r hr q hq => opcodeRow_eq_of_matchesWord hr hq⟩
  have hsome := decode_isSome_of_matchesWord hr hm
  rw [hnone] at hsome
  cases hsome

end Sys2Proof
end

/-! ### What a step does with an unrecognized word -/

section
namespace Sys2Proof.Machine

section
variable {p : Config.Params} {s : State}

/-- The decoder's refusal reaches `execUnrecognized` under any value of the parameters (40_cycle.md R92, R94). -/
theorem stepWith_of_unrecognized (hrun : s.isRunning) (hpc : s.pc.toNat ≤ 4094)
    (hnone : decodeWith p.strictSkipNibble s.fetchWord = none) :
    stepWith p s = execUnrecognized p s.fetchWord s.advance := by
  simp only [stepWith, hrun, s.fetchOk_iff.mpr hpc, if_true, hnone]

theorem execUnrecognized_of_fault (hp : p.sysPolicy = .fault) (w : Word) :
    execUnrecognized p w s = raise .illegalOpcode w.toNat s := by
  simp [execUnrecognized, hp]

theorem execUnrecognized_of_nop {w : Word} (hp : p.sysPolicy = .nop) (hG : fieldG w = 0x0#4) :
    execUnrecognized p w s = .next s := if_pos ⟨hp, hG⟩

end

/-- Settles O10: the fault is raised after the advance, which taking it undoes. -/
theorem unrecognizedWordFaults : Obligations.UnrecognizedWordFaults :=
  fun _ hrun hpc hnone => step_of_unrecognized hrun hpc hnone

/-- Settles O11: the decoder refuses the word under every parameter, and SYS_POLICY says what becomes of it. -/
theorem sysPolicyReading : Obligations.SysPolicyReading := by
  refine ⟨rfl, fun s p hrun hpc hG hcls hret => ?_⟩
  have hnone : decodeWith p.strictSkipNibble s.fetchWord = none := by
    rw [decodeWith_group0 hG, decodeGroup0, if_neg hcls, if_neg hret]
  rw [stepWith_of_unrecognized hrun hpc hnone]
  constructor
  · intro hp
    rw [execUnrecognized_of_fault hp, raise_advance]
  · intro hp
    exact execUnrecognized_of_nop hp hG

end Sys2Proof.Machine
end

/-! ### The cycle: what a Step from RUNNING leaves, and what it returns -/

section
namespace Sys2Proof.Machine

/-! #### The next state of a step: a fault recorded and nothing else changed, or the instruction completed -/

section
variable {i : Instr} {s t : State}

theorem status_notMem_writes (i : Instr) : .status ∉ writes i := by
  cases i <;> simp [writes]

theorem key_notMem_writes (i : Instr) : .key ∉ writes i := by
  cases i <;> simp [writes]

theorem writers_of_dt (hw : .dt ∈ writes i) : ∃ x, i = .ldDtVx x := by
  revert hw
  cases i <;> simp [writes]

theorem writers_of_st (hw : .st ∈ writes i) : ∃ x, i = .ldStVx x := by
  revert hw
  cases i <;> simp [writes]

/-- A fault taken after the advance leaves the status changed and nothing else (40_cycle.md R92, R96). -/
theorem State.raiseFault_advance (k : FaultKind) (n : Nat) :
    s.advance.raiseFault (s.advance.pc - 2) k n = { s with status := .faulted k s.pc n } :=
  Host.Outcome.next.inj (raise_advance s k n)

/-- An unrecognized word makes a legal record (60_exceptions.md R231). -/
theorem faultRecordOk_of_unrecognized {a w : Word} (ha : a.toNat ≤ 4094) (hdec : decode w = none) :
    faultRecordOk .illegalOpcode a w.toNat :=
  ⟨ha, Nat.le_of_lt_succ w.isLt, by rw [BitVec.ofNat_toNat, BitVec.setWidth_eq]; exact hdec⟩

/-- Every next state of a step: a legal fault is recorded at the PC before the step and nothing else changes, or the
decoded instruction changes only the components it writes (R90, R96). -/
theorem step_fault_or_sameBut (h : step s = .next t) :
    (∃ k n, faultRecordOk k s.pc n ∧ t = { s with status := .faulted k s.pc n }) ∨
    ∃ i, decode s.fetchWord = some i ∧ exec i s.advance = .next t ∧ sameBut (writes i) s.advance t := by
  obtain ⟨-, ⟨hpc, rfl⟩ | ⟨hpc, hdec, rfl⟩ | ⟨hpc, i, hdec, hex⟩⟩ := step_next_cases h
  · exact .inl ⟨.fetchOutOfBounds, s.pc.toNat, ⟨rfl, hpc⟩, rfl⟩
  · exact .inl ⟨_, _, faultRecordOk_of_unrecognized hpc hdec, rfl⟩
  · obtain ⟨k, n, hk, rfl⟩ | hf := exec_fault_or_sameBut hex
    · exact .inl ⟨k, n, faultRecordOk_of_execFaults hk hpc, State.raiseFault_advance k n⟩
    · exact .inr ⟨i, hdec, hex, hf⟩

/-- A step that leaves FAULTED has recorded a legal fault at its own PC, and changed nothing else. -/
theorem step_next_of_faulted {k : FaultKind} {a : Word} {n : Nat} (hrun : s.isRunning) (h : step s = .next t)
    (hst : t.status = .faulted k a n) :
    faultRecordOk k s.pc n ∧ t = { s with status := .faulted k s.pc n } := by
  obtain ⟨k', n', hk, rfl⟩ | ⟨i, -, -, hf⟩ := step_fault_or_sameBut h
  · cases hst
    exact ⟨hk, rfl⟩
  · have hsame : t.status = s.status := hf .status (status_notMem_writes i)
    rw [hsame, hrun] at hst
    cases hst

/-- A step from RUNNING never stops the machine (R98). -/
theorem step_isNext (hrun : s.isRunning) : ∃ t, step s = .next t := by
  obtain hpc | hpc := Nat.lt_or_ge 4094 s.pc.toNat
  · exact ⟨_, step_of_fetch_out hrun hpc⟩
  · cases hdec : decode s.fetchWord with
    | none => exact ⟨_, step_of_unrecognized hrun hpc hdec⟩
    | some i =>
      rw [step_of_decode hrun hpc hdec]
      exact exec_isNext s.advance i

/-- A step changes DT only by FX15 (44_keypad_timers.md R195). -/
theorem step_dt_changed (h : step s = .next t) (hne : t.dt ≠ s.dt) :
    ∃ x, decode s.fetchWord = some (.ldDtVx x) ∧ t.dt = s.getV x := by
  obtain ⟨k, n, -, rfl⟩ | ⟨i, hdec, hex, -⟩ := step_fault_or_sameBut h
  · exact absurd rfl hne
  · obtain ⟨x, rfl⟩ := writers_of_dt (mem_writes_of_changed hex hne)
    obtain rfl := Host.Outcome.next.inj hex
    exact ⟨x, hdec, rfl⟩

/-- A step changes ST only by FX18 (R196). -/
theorem step_st_changed (h : step s = .next t) (hne : t.st ≠ s.st) :
    ∃ x, decode s.fetchWord = some (.ldStVx x) ∧ t.st = s.getV x := by
  obtain ⟨k, n, -, rfl⟩ | ⟨i, hdec, hex, -⟩ := step_fault_or_sameBut h
  · exact absurd rfl hne
  · obtain ⟨x, rfl⟩ := writers_of_st (mem_writes_of_changed hex hne)
    obtain rfl := Host.Outcome.next.inj hex
    exact ⟨x, hdec, rfl⟩

theorem step_key_eq (h : step s = .next t) : t.key = s.key := by
  obtain ⟨k, n, -, rfl⟩ | ⟨i, -, -, hf⟩ := step_fault_or_sameBut h
  · rfl
  · exact hf .key (key_notMem_writes i)

end

/-! #### The outcome of a step -/

section
variable {s t : State}

theorem State.hostStep_of_fault {k : FaultKind} {a : Word} {n : Nat} (h : step s = .next t)
    (hst : t.status = .faulted k a n) : s.hostStep = (.fault k n, t) := by
  simp only [State.hostStep, h, hst]

theorem State.hostStep_of_running (h : step s = .next t) (hrun : t.isRunning) :
    s.hostStep = (if s.waitsForKey then .stillWaiting else .completed, t) := by
  simp only [State.hostStep, h, hrun]

theorem State.hostStep_of_faulted {k : FaultKind} {a : Word} {n : Nat} (hs : s.status = .faulted k a n) :
    s.hostStep = (.fault k n, s) := by
  simp only [State.hostStep, step_of_faulted hs]

theorem State.hostStep_snd (h : step s = .next t) : s.hostStep.2 = t := by
  cases hst : t.status with
  | running => rw [State.hostStep_of_running h hst]
  | faulted k a n => rw [State.hostStep_of_fault h hst]

theorem State.waitsForKey_iff (s : State) : s.waitsForKey = true ↔
    (∃ x, decode s.fetchWord = some (.ldVxK x)) ∧ ∀ k < 16, s.keyDown k = false := by
  rw [← State.firstKeyDown_eq_none_iff, State.waitsForKey]
  split
  · next x hdec => simp [hdec]
  · next hother =>
    have hno : ¬ ∃ x, decode s.fetchWord = some (.ldVxK x) := fun ⟨x, hx⟩ => hother x hx
    simp [hno]

end

/-! #### The status after a host operation -/

section
variable {s : State}

@[simp] theorem State.hostReset_isRunning (start : Word) : (s.hostReset start).isRunning := rfl

@[simp] theorem State.hostLoad_status (base : Nat) (bytes : List Byte) : (s.hostLoad base bytes).2.status = s.status := by
  unfold State.hostLoad
  split <;> rfl

@[simp] theorem State.hostSetKey_status (index : Int) (pressed : Bool) :
    (s.hostSetKey index pressed).status = s.status := by
  unfold State.hostSetKey
  split <;> rfl

/-- In FAULTED no operation but Reset changes the status (60_exceptions.md R233). -/
theorem hostOp_status_of_faulted {k : FaultKind} {a : Word} {n : Nat} (hs : s.status = .faulted k a n) {op : HostOp}
    (hop : ∀ start, op ≠ .reset start) : (hostOp op s).2.status = s.status := by
  cases op with
  | reset start => exact absurd rfl (hop start)
  | load base bytes => exact State.hostLoad_status base bytes
  | step => rw [hostOp, State.hostStep_of_faulted hs]
  | setKey index pressed => exact State.hostSetKey_status index pressed
  | tick | readDisplay | readSound | readState => rfl

end

/-- Settles O8: the decoder gives only well-formed instructions, and the step runs the one it gives. -/
theorem stepRunsTheDecodedInstruction : Obligations.StepRunsTheDecodedInstruction :=
  fun _ _ hrun hpc hdec => ⟨(readFrom_of_decodeWith hdec).wellFormed, step_of_decode hrun hpc hdec⟩

/-- Settles O9: a fetch fault is a legal record only from PC = 4095 on. -/
theorem fetchBoundsAndByteOrder : Obligations.FetchBoundsAndByteOrder := by
  refine fun s hrun => ⟨step_of_fetch_out hrun, fun hpc => ⟨s.fetchWord_toNat, fun t a n h hst => ?_⟩⟩
  obtain ⟨⟨-, hout⟩, -⟩ := step_next_of_faulted hrun h hst
  omega

/-- Settles O12: a step that leaves FAULTED changed the status alone, and its outcome is read off the record. -/
theorem faultsArePrecise : Obligations.FaultsArePrecise := by
  intro s t k a n hrun h hst
  obtain ⟨-, ht⟩ := step_next_of_faulted hrun h hst
  exact ⟨ht, State.hostStep_of_fault h hst⟩

/-- Settles O13: Step stops with the record, and of the other operations Reset alone writes the status. -/
theorem faultedIsSticky : Obligations.FaultedIsSticky := by
  intro s k a n hs
  exact ⟨step_of_faulted hs, State.hostStep_of_faulted hs,
    fun op hop => (hostOp_status_of_faulted hs hop).trans hs, State.hostReset_isRunning⟩

/-- Settles O15: a step always has a next state, whose status and the wait for a key give the outcome; the frame of the
instruction says what became of the timers and the keys. -/
theorem stepOutcomeAndTimers : Obligations.StepOutcomeAndTimers := by
  intro s hrun
  obtain ⟨t, h⟩ := step_isNext hrun
  refine ⟨t, h, State.hostStep_snd h, fun ht hwait => ?_, fun ht hwait => ?_, step_dt_changed h, step_st_changed h,
    step_key_eq h⟩
  · rw [State.hostStep_of_running h ht, if_pos (s.waitsForKey_iff.mpr hwait)]
  · rw [State.hostStep_of_running h ht, if_neg (mt s.waitsForKey_iff.mp hwait)]

end Sys2Proof.Machine
end

/-! ### Control flow: jumps, skips, and calls and returns over the stack of return addresses -/

section
namespace Sys2Proof.Machine

/-! #### The frame of each update that control flow makes -/

section
variable (s : State)

theorem State.setPc_frame (a : Word) : unchangedBut [.pc] s (s.setPc a) :=
  unchangedBut_of_sameBut (by simp [sameBut_iff])

theorem State.skipIf_frame (c : Bool) : unchangedBut [.pc] s (s.skipIf c) :=
  unchangedBut_of_sameBut (by simp [sameBut_iff])

theorem State.push_setPc_frame (a b : Word) : unchangedBut [.pc, .stack, .sp] s ((s.push a).setPc b) :=
  unchangedBut_of_sameBut (by simp [sameBut_iff])

theorem State.popToPc_frame : unchangedBut [.pc, .sp] s s.popToPc :=
  unchangedBut_of_sameBut (by simp [sameBut_iff])

/-- Where SE leaves PC (41_control_flow.md R114, R116). -/
theorem State.skipIf_beq_pc (a b : Byte) : (s.skipIf (a == b)).pc = if a = b then s.pc + 2 else s.pc := by
  simp

/-- Where SNE leaves PC (R115, R117). -/
theorem State.skipIf_bne_pc (a b : Byte) : (s.skipIf (a != b)).pc = if a = b then s.pc else s.pc + 2 := by
  simp

end

/-- SYS_POLICY rules group 0 alone: an unrecognized word of any other group faults (30_encoding.md R80, R81). -/
theorem execUnrecognized_of_other_group (p : Config.Params) {w : Word} (hG : fieldG w ≠ 0x0#4) (s : State) :
    execUnrecognized p w s = raise .illegalOpcode w.toNat s := if_neg fun h => hG h.2

/-- Under STRICT_SKIP_NIBBLE = true a word of group 5 or 9 with N ≠ 0 faults, and the advance is undone (R75, R96). -/
theorem stepWith_of_strict_skip {p : Config.Params} {s : State} (hstrict : p.strictSkipNibble = true)
    (hrun : s.isRunning) (hpc : s.pc.toNat ≤ 4094) (hG : fieldG s.fetchWord = 0x5#4 ∨ fieldG s.fetchWord = 0x9#4)
    (hN : fieldN s.fetchWord ≠ 0x0#4) :
    stepWith p s = .next { s with status := .faulted .illegalOpcode s.pc s.fetchWord.toNat } := by
  have hnone : decodeWith p.strictSkipNibble s.fetchWord = none := by
    rw [hstrict]
    exact decodeWith_true_of_nibble_ne_zero hG hN
  have hG0 : fieldG s.fetchWord ≠ 0x0#4 := by
    obtain hG | hG := hG <;> rw [hG] <;> decide
  rw [stepWith_of_unrecognized hrun hpc hnone, execUnrecognized_of_other_group p hG0, raise_advance]

/-! #### The occupied slots as a list of return addresses, the last pushed first (10_state.md R27) -/

/-- The return addresses in the order RET takes them. -/
def State.returnAddrs (s : State) : List Word := (List.range s.sp).reverse.map s.slot

section
variable {s : State}

theorem State.length_returnAddrs (s : State) : s.returnAddrs.length = s.sp := by
  simp [State.returnAddrs]

theorem State.returnAddrs_of_sp_eq_succ {n : Nat} (h : s.sp = n + 1) :
    s.returnAddrs = s.slot n :: (List.range n).reverse.map s.slot := by
  simp [State.returnAddrs, h, List.range_succ]

/-- Only the stack and SP count: those of `s`, whatever else stands in the state (41_control_flow.md R119). -/
theorem State.returnAddrs_withStackOf_advance (r s : State) : (r.withStackOf s).advance.returnAddrs = s.returnAddrs :=
  rfl

/-- CALL puts the advanced PC in front (R113). -/
theorem State.returnAddrs_push_setPc (h : s.sp < 16) (a b : Word) :
    ((s.push a).setPc b).returnAddrs = a :: s.returnAddrs := by
  have hbelow : (List.range s.sp).reverse.map (s.push a).slot = s.returnAddrs :=
    List.map_congr_left fun k hk => s.slot_push_other a (List.mem_range.mp (List.mem_reverse.mp hk)).ne
  have htop : (s.push a).returnAddrs = (s.push a).slot s.sp :: (List.range s.sp).reverse.map (s.push a).slot :=
    State.returnAddrs_of_sp_eq_succ rfl
  rw [hbelow, s.slot_push_same a h] at htop
  exact htop

/-- RET takes the first one into PC (R111). -/
theorem State.returnAddrs_eq_popToPc_cons (h : s.sp ≠ 0) :
    s.returnAddrs = s.popToPc.pc :: s.popToPc.returnAddrs := by
  obtain ⟨n, hn⟩ := Nat.exists_eq_succ_of_ne_zero h
  have hpred : s.sp - 1 = n := by omega
  rw [State.returnAddrs_of_sp_eq_succ hn, State.popToPc_pc, State.returnAddrs, State.popToPc_sp, hpred]
  rfl

theorem callAll_cons {c : State} {nnn : Addr} {calls : List (State × Addr)} (h : s.sp < 16) :
    callAll ((c, nnn) :: calls) s =
      callAll calls (((c.withStackOf s).advance.push (c.pc + 2)).setPc (zextAddr nnn)) := by
  have hpush : exec (.call nnn) (c.withStackOf s).advance = _ := exec_call_pushes h
  rw [callAll, hpush]
  rfl

theorem returnAll_cons {r : State} {rets : List State} (h : s.sp ≠ 0) :
    returnAll (r :: rets) s =
      ((r.withStackOf s).advance.popToPc.pc :: (returnAll rets (r.withStackOf s).advance.popToPc).1,
        (returnAll rets (r.withStackOf s).advance.popToPc).2) := by
  have hpop : exec .ret (r.withStackOf s).advance = _ := exec_ret_pops h
  rw [returnAll, hpop]

/-- Calls that fit the 16 slots all complete, and put the addresses after them in front, the last call's first. -/
theorem callAll_pushes (calls : List (State × Addr)) (s : State) (hfit : s.sp + calls.length ≤ 16) :
    ∃ t, callAll calls s = .next t ∧
      t.returnAddrs = (calls.map fun c => c.1.pc + 2).reverse ++ s.returnAddrs := by
  induction calls generalizing s with
  | nil => exact ⟨s, rfl, rfl⟩
  | cons call calls ih =>
    obtain ⟨c, nnn⟩ := call
    rw [List.length_cons] at hfit
    have hlt : s.sp < 16 := by omega
    obtain ⟨t, ht, haddrs⟩ := ih (((c.withStackOf s).advance.push (c.pc + 2)).setPc (zextAddr nnn))
      (show s.sp + 1 + calls.length ≤ 16 by omega)
    refine ⟨t, (callAll_cons hlt).trans ht, ?_⟩
    rw [haddrs, State.returnAddrs_push_setPc (s := (c.withStackOf s).advance) hlt,
      State.returnAddrs_withStackOf_advance]
    simp

/-- Returns take return addresses from the front, as many as there are returns, and leave the others. -/
theorem returnAll_pops {rets : List State} {addrs below : List Word} (hs : s.returnAddrs = addrs ++ below)
    (hlen : rets.length = addrs.length) :
    (returnAll rets s).1 = addrs ∧ (returnAll rets s).2.returnAddrs = below := by
  induction rets generalizing s addrs with
  | nil =>
    obtain rfl := List.length_eq_zero_iff.mp hlen.symm
    exact ⟨rfl, hs⟩
  | cons r rets ih =>
    obtain ⟨addr, addrs, rfl⟩ := List.exists_cons_of_length_eq_add_one hlen.symm
    have hsp : s.sp ≠ 0 := by
      rw [← s.length_returnAddrs, hs]
      simp
    have hpop := State.returnAddrs_eq_popToPc_cons (s := (r.withStackOf s).advance) hsp
    rw [State.returnAddrs_withStackOf_advance, hs, List.cons_append, List.cons.injEq] at hpop
    obtain ⟨hpc, hrest⟩ := hpop
    obtain ⟨hpcs, hbelow⟩ := ih hrest.symm (Nat.succ.inj hlen)
    rw [returnAll_cons hsp, hpcs, ← hpc]
    exact ⟨rfl, hbelow⟩

end

/-- Settles O24: NNN is zero-extended into PC. -/
theorem jumpSetsPc : Obligations.JumpSetsPc := fun nnn =>
  ⟨decodeEncodeRoundTrip (.jp nnn) rfl, fun s => ⟨_, rfl, zextAddr_toNat nnn, s.setPc_frame _⟩⟩

/-- Settles O25: the sum is exact, NNN + V0 being below 65536. -/
theorem jumpV0AddsV0 : Obligations.JumpV0AddsV0 := fun nnn =>
  ⟨decodeEncodeRoundTrip (.jpV0 nnn) rfl,
    fun s => ⟨_, rfl, zextAddr_add_zextByte_toNat nnn (s.getV 0), s.setPc_frame _⟩⟩

/-- Settles O26, by whether a slot is free. -/
theorem callPushesAndJumps : Obligations.CallPushesAndJumps := by
  refine fun nnn => ⟨decodeEncodeRoundTrip (.call nnn) rfl, fun s hsp => ?_, fun s hsp => ?_⟩
  · exact ⟨_, exec_call_pushes hsp, s.slot_push_same s.pc hsp, rfl, zextAddr_toNat nnn,
      fun k _ hk => s.slot_push_other s.pc hk, s.push_setPc_frame _ _⟩
  · rw [exec_call_overflows hsp]
    exact raise_faultTaken s _ _

/-- Settles O27, by whether a slot is occupied. -/
theorem returnPopsPc : Obligations.ReturnPopsPc := by
  obtain ⟨-, -, hunderflow⟩ := stackPointerStaysInRange
  exact ⟨decodeEncodeRoundTrip .ret rfl, fun s hsp _ => ⟨_, exec_ret_pops hsp.ne', rfl, rfl, s.popToPc_frame⟩,
    hunderflow⟩

/-- Settles O28: the calls put the addresses after them in front of the return addresses, and as many returns take them
from there again. -/
theorem callsAndReturnsAreLifo : Obligations.CallsAndReturnsAreLifo := by
  intro calls rets s hfit hlen
  obtain ⟨t, ht, haddrs⟩ := callAll_pushes calls s hfit
  obtain ⟨hpcs, hrest⟩ := returnAll_pops (rets := rets) haddrs (by simp [hlen])
  obtain ⟨-, hoverflow, hunderflow⟩ := stackPointerStaysInRange
  have hsp : (returnAll rets t).2.sp = s.sp := by rw [← State.length_returnAddrs, hrest, s.length_returnAddrs]
  refine ⟨t, ht, ?_, hpcs, hsp, fun h0 r => ?_, fun h16 r nnn => ?_⟩
  · rw [← t.length_returnAddrs, haddrs, ← s.length_returnAddrs]
    simp [Nat.add_comm]
  · exact hunderflow _ (hsp.trans h0)
  · exact hoverflow nnn _ h16

/-- Settles O29: each of the four is a skip under its own condition, and the strict reading makes other nibbles
unrecognized. -/
theorem comparingSkips : Obligations.ComparingSkips := by
  refine ⟨fun x nn => ⟨decodeEncodeRoundTrip (.seImm x nn) rfl, fun s => ?_⟩,
    fun x nn => ⟨decodeEncodeRoundTrip (.sneImm x nn) rfl, fun s => ?_⟩,
    fun x y n => ⟨decodeWith_false_5XYN x y n, fun s => ?_⟩,
    fun x y n => ⟨decodeWith_false_9XYN x y n, fun s => ?_⟩, fun x y n p s hn hstrict hrun hpc hw => ?_⟩
  · exact ⟨_, rfl, s.skipIf_beq_pc _ _, s.skipIf_frame _⟩
  · exact ⟨_, rfl, s.skipIf_bne_pc _ _, s.skipIf_frame _⟩
  · exact ⟨_, rfl, s.skipIf_beq_pc _ _, s.skipIf_frame _⟩
  · exact ⟨_, rfl, s.skipIf_bne_pc _ _, s.skipIf_frame _⟩
  · obtain h | h := hw
    · exact stepWith_of_strict_skip hstrict hrun hpc (.inl ((congrArg fieldG h).trans (fieldG_GXYN _ x y n)))
        (by rwa [h, fieldN_GXYN])
    · exact stepWith_of_strict_skip hstrict hrun hpc (.inr ((congrArg fieldG h).trans (fieldG_GXYN _ x y n)))
        (by rwa [h, fieldN_GXYN])

end Sys2Proof.Machine
end

/-! ### Registers and ALU: one rule per update, one fact per flag, and a result for each instruction -/

section
namespace Sys2Proof.Machine

/-! #### What each update of the ALU writes, and what it leaves -/

section
variable (s : State)

/-- An instruction with no flag changes its destination alone, VF included (42_alu.md R130). -/
theorem State.setV_onlyRegs (x : RegIdx) (b : Byte) : onlyRegs [x] s (s.setV x b) :=
  ⟨unchangedBut_of_sameBut (by simp [sameBut_iff]),
    fun _ hr => s.getV_setV_other (List.ne_of_not_mem_cons hr) b⟩

theorem State.getV_setWithFlag_VF (x : RegIdx) (b : Byte) (c : Bool) :
    (s.setWithFlag x b c).getV VF = flagByte c := by
  rw [State.getV_setWithFlag, if_pos rfl]

theorem State.getV_setWithFlag_same {x : RegIdx} (hx : x ≠ VF) (b : Byte) (c : Bool) :
    (s.setWithFlag x b c).getV x = b := by
  rw [State.getV_setWithFlag, if_neg hx, if_pos rfl]

theorem State.getV_setWithFlag_other {x r : RegIdx} (hr : r ∉ [x, VF]) (b : Byte) (c : Bool) :
    (s.setWithFlag x b c).getV r = s.getV r := by
  rw [State.getV_setWithFlag, if_neg fun h => hr (by simp [h]), if_neg fun h => hr (by simp [h])]

theorem State.setWithFlag_onlyRegs (x : RegIdx) (b : Byte) (c : Bool) : onlyRegs [x, VF] s (s.setWithFlag x b c) :=
  ⟨unchangedBut_of_sameBut (by simp [sameBut_iff]), fun _ hr => s.getV_setWithFlag_other hr b c⟩

/-- The rule of the five flag-writing instructions: from the values of the result and of the flag follows what each of
them leaves, X = F included, where the flag wins (R130, R137 to R141). -/
theorem State.setWithFlag_results (x : RegIdx) {b : Byte} {c : Bool} {result flag : Nat} (hb : b.toNat = result)
    (hc : (flagByte c).toNat = flag) :
    onlyRegs [x, VF] s (s.setWithFlag x b c) ∧ (x ≠ VF → ((s.setWithFlag x b c).getV x).toNat = result) ∧
      ((s.setWithFlag x b c).getV VF).toNat = flag := by
  refine ⟨s.setWithFlag_onlyRegs x b c, fun hx => ?_, ?_⟩
  · rw [s.getV_setWithFlag_same hx, hb]
  · rw [s.getV_setWithFlag_VF, hc]

theorem State.setI_frame (a : Word) : unchangedBut [.i] s (s.setI a) :=
  unchangedBut_of_sameBut (by simp [sameBut_iff])

theorem State.setV_countDraw_frame (x : RegIdx) (b : Byte) : unchangedBut [.v, .draws] s (s.setV x b).countDraw :=
  unchangedBut_of_sameBut (by simp [sameBut_iff])

end

/-! #### Results and flags as numbers (R137 to R141) -/

/-- A flag reads as 1 exactly where its condition holds (10_state.md R22). -/
theorem flagByte_decide_toNat (p : Prop) [Decidable p] : (flagByte (decide p)).toNat = if p then 1 else 0 := by
  by_cases hp : p <;> simp [flagByte, hp]

theorem flagByte_toNat (c : Bool) : (flagByte c).toNat = c.toNat := by
  cases c <;> rfl

theorem flagByte_lowBitFlag_toNat (a : Byte) : (flagByte (lowBitFlag a)).toNat = a.toNat % 2 := by
  rw [flagByte_toNat, lowBitFlag, BitVec.getLsbD, Nat.toNat_testBit, Nat.pow_zero, Nat.div_one]

theorem flagByte_highBitFlag_toNat (a : Byte) : (flagByte (highBitFlag a)).toNat = a.toNat / 128 := by
  rw [flagByte_toNat, highBitFlag, BitVec.getLsbD, Nat.toNat_testBit]
  omega

theorem byte_sub_toNat (a b : Byte) : (a - b).toNat = (a.toNat + 256 - b.toNat) % 256 := by
  rw [BitVec.toNat_sub]
  omega

theorem byte_ushiftRight_one_toNat (a : Byte) : (a >>> 1).toNat = a.toNat / 2 := by
  rw [BitVec.toNat_ushiftRight, Nat.shiftRight_one]

theorem byte_shiftLeft_one_toNat (a : Byte) : (a <<< 1).toNat = a.toNat * 2 % 256 := by
  rw [BitVec.toNat_shiftLeft, Nat.shiftLeft_eq]

/-- A font address is exact: five times a byte stays below 65536 (R145). -/
theorem zextByte_mul_five_toNat (b : Byte) : (zextByte b * 5).toNat = b.toNat * 5 := by
  have hlt : b.toNat * 5 < 65536 := by omega
  rw [BitVec.toNat_mul, zextByte_toNat]
  exact Nat.mod_eq_of_lt hlt

/-- Settles O31: both are one register write. -/
theorem loadRegisterResults : Obligations.LoadRegisterResults :=
  ⟨fun x nn => ⟨decodeEncodeRoundTrip (.ldImm x nn) rfl,
      fun s => ⟨_, rfl, s.getV_setV_same x nn, s.setV_onlyRegs x nn⟩⟩,
    fun x y => ⟨decodeEncodeRoundTrip (.ldReg x y) rfl,
      fun s => ⟨_, rfl, s.getV_setV_same x (s.getV y), s.setV_onlyRegs x _⟩⟩⟩

/-- Settles O32: addition of bytes is addition modulo 256. -/
theorem addImmediateWraps : Obligations.AddImmediateWraps := by
  refine fun x nn => ⟨decodeEncodeRoundTrip (.addImm x nn) rfl, fun s => ⟨_, rfl, ?_, s.setV_onlyRegs x _⟩⟩
  rw [State.getV_setV_same, BitVec.toNat_add]

/-- Settles O33: each is one register write of a bitwise operation. -/
theorem logicResults : Obligations.LogicResults := by
  refine fun x y => ⟨decodeEncodeRoundTrip (.or x y) rfl, decodeEncodeRoundTrip (.and x y) rfl,
    decodeEncodeRoundTrip (.xor x y) rfl, fun s => ⟨⟨_, rfl, s.setV_onlyRegs x _, fun k _ => ?_⟩,
      ⟨_, rfl, s.setV_onlyRegs x _, fun k _ => ?_⟩, ⟨_, rfl, s.setV_onlyRegs x _, fun k _ => ?_⟩⟩⟩
  · rw [State.getV_setV_same, BitVec.getLsbD_or]
  · rw [State.getV_setV_same, BitVec.getLsbD_and]
  · rw [State.getV_setV_same, BitVec.getLsbD_xor]

/-- Settles O34 by the rule of the flag-writing instructions: the sum is modulo 256, and the carry reads the exact sum. -/
theorem addRegisterSetsCarry : Obligations.AddRegisterSetsCarry := fun x y =>
  ⟨decodeEncodeRoundTrip (.addReg x y) rfl, fun s =>
    ⟨_, rfl, s.setWithFlag_results x (BitVec.toNat_add _ _) (flagByte_decide_toNat _)⟩⟩

/-- Settles O35 by the same rule, with the operands in either order. -/
theorem subtractionsSetGreaterFlag : Obligations.SubtractionsSetGreaterFlag := fun x y =>
  ⟨decodeEncodeRoundTrip (.sub x y) rfl, decodeEncodeRoundTrip (.subn x y) rfl, fun s =>
    ⟨⟨_, rfl, s.setWithFlag_results x (byte_sub_toNat _ _) (flagByte_decide_toNat _)⟩,
      ⟨_, rfl, s.setWithFlag_results x (byte_sub_toNat _ _) (flagByte_decide_toNat _)⟩⟩⟩

/-- Settles O36 by the same rule: a shift halves or doubles, and the bit shifted out is the parity or the top half. -/
theorem shiftsSetBitShiftedOut : Obligations.ShiftsSetBitShiftedOut := fun x y =>
  ⟨decode_8XY6 x y, decode_8XYE x y, fun s =>
    ⟨⟨_, rfl, s.setWithFlag_results x (byte_ushiftRight_one_toNat _) (flagByte_lowBitFlag_toNat _)⟩,
      ⟨_, rfl, s.setWithFlag_results x (byte_shiftLeft_one_toNat _) (flagByte_highBitFlag_toNat _)⟩⟩⟩

/-- Settles O37: each is one write of I; only the sum of FX1E can wrap. -/
theorem indexRegisterResults : Obligations.IndexRegisterResults := by
  refine ⟨fun nnn => ⟨decodeEncodeRoundTrip (.ldI nnn) rfl, fun s => ⟨_, rfl, zextAddr_toNat nnn, s.setI_frame _⟩⟩,
    fun x => ⟨decodeEncodeRoundTrip (.addIVx x) rfl, fun s => ⟨_, rfl, ?_, s.setI_frame _⟩⟩,
    fun x => ⟨decodeEncodeRoundTrip (.ldFVx x) rfl,
      fun s => ⟨_, rfl, zextByte_mul_five_toNat (s.getV x), s.setI_frame _⟩⟩⟩
  rw [State.setI_i, BitVec.toNat_add, zextByte_toNat]

/-- Settles O38: one register write of the masked free byte, then one draw counted. -/
theorem randomByteIsMasked : Obligations.RandomByteIsMasked := by
  refine fun x nn => ⟨decodeEncodeRoundTrip (.rnd x nn) rfl, fun s => ?_⟩
  have hx : (s.setV x (s.drawByte &&& nn)).countDraw.getV x = Config.rand s.draws &&& nn := s.getV_setV_same x _
  refine ⟨_, rfl, rfl, fun k _ => ?_, ?_, s.setV_countDraw_frame x _, fun r hr => s.getV_setV_other hr _⟩
  · rw [hx, BitVec.getLsbD_and]
  · rw [hx, BitVec.toNat_and]
    exact Nat.and_le_right

end Sys2Proof.Machine
end

/-! ### Display: what DRW leaves, said once for both values of SPRITE_EDGE, and what two draws leave -/

section
namespace Sys2Proof.Machine

/-! #### The pixels a sprite covers -/

/-- The screen pixels a set sprite bit falls on under either value of SPRITE_EDGE (43_display.md R173, R174). -/
def State.spriteCoversUnder (s : State) (x y : RegIdx) (n : Nat) : Config.SpriteEdge → Nat → Nat → Prop
  | .clip => s.spriteCovers x y n
  | .wrap => s.spriteCoversWrapped x y n

section
variable {s t u : State} {x y x' y' : RegIdx} {n px py : Nat}

/-- On screen, the compositor's targets are the pixels covered. -/
theorem State.mem_spriteTargets_iff (edge : Config.SpriteEdge) (hx : px < 64) (hy : py < 32) :
    (px, py) ∈ spriteTargets edge (s.originX x) (s.originY y) (s.readBytes s.i.toNat n) ↔
      s.spriteCoversUnder x y n edge px py := by
  cases edge with
  | clip =>
    rw [mem_spriteTargets_clip]
    simp only [hx, hy, true_and, State.readBytes, Memory.length_readBytes, Memory.getElem_readBytes, exists_prop]
    rfl
  | wrap =>
    rw [mem_spriteTargets_wrap]
    simp only [State.readBytes, Memory.length_readBytes, Memory.getElem_readBytes, exists_prop]
    rfl

/-- The same bytes at the same origin cover the same pixels. -/
theorem State.spriteCovers_congr (hx : t.originX x' = s.originX x) (hy : t.originY y' = s.originY y)
    (hrows : ∀ r < n, t.readByte (t.i.toNat + r) = s.readByte (s.i.toNat + r)) :
    t.spriteCovers x' y' n = s.spriteCovers x y n := by
  funext px py
  simp only [State.originX, State.originY] at hx hy
  refine propext (exists_congr fun r => exists_congr fun b => and_congr_right fun hr => ?_)
  rw [hrows r hr, hx, hy]

/-- A sprite of zero bytes covers no pixel. -/
theorem State.not_spriteCovers_of_zero (h : ∀ r < n, s.readByte (s.i.toNat + r) = 0x00#8) :
    ¬ s.spriteCovers x y n px py := by
  rintro ⟨r, b, hr, -, hbit, -⟩
  rw [h r hr, BitVec.getLsbD_zero] at hbit
  cases hbit

/-! #### What DRW does -/

/-- The canvas of a drawn sprite, by its targets: always under Clip, and under Wrap where no two of its rows
can meet, there being at most 32 (R172 to R174). -/
theorem State.drawSprite_targets (edge : Config.SpriteEdge) (h : edge = .clip ∨ n ≤ 32) :
    (∀ px py, px < 64 → py < 32 → pixelAt (s.drawSprite edge x y n).pix px py =
      (pixelAt s.pix px py ^^
        decide ((px, py) ∈ spriteTargets edge (s.originX x) (s.originY y) (s.readBytes s.i.toNat n)))) ∧
    (s.drawSprite edge x y n).hit =
      (spriteTargets edge (s.originX x) (s.originY y) (s.readBytes s.i.toNat n)).any
        fun p => pixelAt s.pix p.1 p.2 := by
  cases edge with
  | clip => exact drawRows_clip ..
  | wrap => exact drawRows_wrap _ _ (by simpa [State.readBytes] using h) _

/-- The canvas of a drawn sprite, by the pixels it covers: each one flips and no other, and the collision flag says
whether one of them was lit. -/
theorem State.drawSprite_covers (edge : Config.SpriteEdge) (h : edge = .clip ∨ n ≤ 32) :
    (∀ px < 64, ∀ py < 32,
      (s.spriteCoversUnder x y n edge px py → pixelAt (s.drawSprite edge x y n).pix px py = !pixelAt s.pix px py) ∧
      (¬ s.spriteCoversUnder x y n edge px py →
        pixelAt (s.drawSprite edge x y n).pix px py = pixelAt s.pix px py)) ∧
    ((s.drawSprite edge x y n).hit = true ↔
      ∃ px < 64, ∃ py < 32, s.spriteCoversUnder x y n edge px py ∧ pixelAt s.pix px py = true) := by
  obtain ⟨hpix, hhit⟩ := s.drawSprite_targets (x := x) (y := y) edge h
  constructor
  · intro px hx py hy
    rw [hpix px py hx hy, ← s.mem_spriteTargets_iff edge hx hy]
    exact ⟨fun hcov => by rw [decide_eq_true hcov, Bool.xor_true],
      fun hcov => by rw [decide_eq_false hcov, Bool.xor_false]⟩
  · rw [hhit, List.any_eq_true]
    constructor
    · rintro ⟨⟨px, py⟩, hmem, hlit⟩
      obtain ⟨hx, hy⟩ := spriteTargets_onScreen _ hmem
      exact ⟨px, hx, py, hy, (s.mem_spriteTargets_iff edge hx hy).mp hmem, hlit⟩
    · rintro ⟨px, hx, py, hy, hcov, hlit⟩
      exact ⟨(px, py), (s.mem_spriteTargets_iff edge hx hy).mpr hcov, hlit⟩

/-- DRW of a sprite inside memory completes and leaves the sprite drawn. -/
theorem execDrwWith_draws (edge : Config.SpriteEdge) (h : edge = .clip ∨ n ≤ 32) (hfit : s.rangeFits n) :
    ∃ t, execDrwWith edge x y n s = .next t ∧ spriteDrawn (s.spriteCoversUnder x y n edge) s t := by
  obtain ⟨hpix, hhit⟩ := s.drawSprite_covers (x := x) (y := y) edge h
  refine ⟨_, withRange_fits hfit, hpix, fun hlit => ?_, fun hdark => ?_,
    unchangedBut_of_sameBut (by simp [sameBut_iff]), fun r hr => State.getV_setV_other _ hr _⟩
  · rw [State.getV_setV_same, hhit.mpr hlit]
    rfl
  · rw [State.getV_setV_same, Bool.eq_false_iff.mpr (hdark ∘ hhit.mp)]
    rfl

/-- On this hardware, where SPRITE_EDGE is Clip, a sprite may have any height. -/
theorem exec_drw_draws (hfit : s.rangeFits n) :
    ∃ t, exec (.drw x y n) s = .next t ∧ spriteDrawn (s.spriteCovers x y n) s t :=
  execDrwWith_draws .clip (.inl rfl) hfit

/-- DRW of a sprite that reaches past memory faults before any effect (20_memory.md R54). -/
theorem execDrwWith_faults (edge : Config.SpriteEdge) (hfit : ¬ s.rangeFits n) :
    ∃ t, execDrwWith edge x y n s = .next t ∧ faultTaken .memOutOfBounds (max s.i.toNat 4096) s t := by
  rw [execDrwWith, withRange_faults _ (by unfold State.rangeFits at hfit; omega)]
  exact raise_faultTaken s _ _

/-! #### What drawn sprites leave (R175) -/

section
variable {covers : Nat → Nat → Prop}

theorem spriteDrawn_VF_eq_one_iff (h : spriteDrawn covers s t) :
    t.getV VF = 0x01#8 ↔ ∃ px < 64, ∃ py < 32, covers px py ∧ pixelAt s.pix px py = true := by
  obtain ⟨-, hlit, hdark, -, -⟩ := h
  refine ⟨fun h1 => ?_, hlit⟩
  by_contra hno
  rw [hdark hno] at h1
  exact absurd h1 (by decide)

/-- A sprite that covers nothing leaves the pixels and clears VF. -/
theorem spriteDrawn_of_covers_nothing (h : spriteDrawn covers s t) (hno : ∀ px py, ¬ covers px py) :
    (∀ px < 64, ∀ py < 32, pixelAt t.pix px py = pixelAt s.pix px py) ∧ t.getV VF = 0x00#8 := by
  obtain ⟨hpix, -, hdark, -, -⟩ := h
  exact ⟨fun px hx py hy => (hpix px hx py hy).2 (hno px py),
    hdark fun ⟨px, _, py, _, hcov, _⟩ => hno px py hcov⟩

/-- "XOR is self-inverse": a second draw over the same pixels restores them. -/
theorem spriteDrawn_twice_pixelAt (h : spriteDrawn covers s t) {t' : State} (ht' : t'.pix = t.pix)
    (h' : spriteDrawn covers t' u) (hx : px < 64) (hy : py < 32) : pixelAt u.pix px py = pixelAt s.pix px py := by
  obtain ⟨hpix, -⟩ := h
  obtain ⟨hpix', -⟩ := h'
  obtain ⟨hflip, hkeep⟩ := hpix px hx py hy
  obtain ⟨hflip', hkeep'⟩ := hpix' px hx py hy
  by_cases hcov : covers px py
  · rw [hflip' hcov, ht', hflip hcov, Bool.not_not]
  · rw [hkeep' hcov, ht', hkeep hcov]

/-- The second draw collides where the first one lit a pixel: a covered one that was dark. -/
theorem spriteDrawn_twice_VF_eq_one_iff (h : spriteDrawn covers s t) {t' : State} (ht' : t'.pix = t.pix)
    (h' : spriteDrawn covers t' u) :
    u.getV VF = 0x01#8 ↔ ∃ px < 64, ∃ py < 32, covers px py ∧ pixelAt s.pix px py = false := by
  obtain ⟨hpix, -⟩ := h
  rw [spriteDrawn_VF_eq_one_iff h', ht']
  refine exists_congr fun px => and_congr_right fun hx => exists_congr fun py => and_congr_right fun hy =>
    and_congr_right fun hcov => ?_
  rw [(hpix px hx py hy).1 hcov, Bool.not_eq_true']

end

end

/-- Settles O39: CLS is one write of the pixels, all of them blank. -/
theorem clearDisplay : Obligations.ClearDisplay :=
  ⟨decodeEncodeRoundTrip .cls rfl, fun _ => ⟨_, rfl, unchangedBut_of_sameBut (by simp [sameBut_iff]),
    fun x _ y _ => pixelAt_blankPixels x y⟩⟩

/-- Settles O40, by whether the sprite's bytes lie in memory; under Wrap a sprite of fewer than 16 rows never meets
itself. -/
theorem drawFlipsCoveredPixels : Obligations.DrawFlipsCoveredPixels := by
  refine ⟨rfl, fun x y n hn =>
    ⟨decodeEncodeRoundTrip (.drw x y n) (decide_eq_true hn), fun s hfit => ?_, fun s hfit => ?_⟩⟩
  · exact ⟨exec_drw_draws hfit, execDrwWith_draws .wrap (.inr (by omega)) hfit⟩
  · exact ⟨execDrwWith_faults .clip hfit, execDrwWith_faults .wrap hfit⟩

/-- Settles O41: a zero sprite covers nothing, and two draws of one sprite cover the same pixels. -/
theorem drawingTwiceRestores : Obligations.DrawingTwiceRestores := by
  constructor
  · intro x y n s t t' hcls ht' hfit hzero
    obtain rfl := Host.Outcome.next.inj hcls
    obtain ⟨u, hu, hdrawn⟩ := exec_drw_draws (x := x) (y := y) hfit
    obtain ⟨hpix, hVF⟩ := spriteDrawn_of_covers_nothing hdrawn fun _ _ => t'.not_spriteCovers_of_zero hzero
    refine ⟨u, hu, fun px hx py hy => ?_, hVF⟩
    rw [hpix px hx py hy, ht']
    exact pixelAt_blankPixels px py
  · intro x y n s hfit
    obtain ⟨t, ht, hdrawn⟩ := exec_drw_draws (x := x) (y := y) hfit
    refine ⟨t, ht, spriteDrawn_VF_eq_one_iff hdrawn, fun x' y' t' ht' hx hy hfit' hrows => ?_⟩
    obtain ⟨u, hu, hdrawn'⟩ := exec_drw_draws (x := x') (y := y') hfit'
    rw [State.spriteCovers_congr hx hy hrows] at hdrawn'
    exact ⟨u, hu, fun _ hpx _ hpy => spriteDrawn_twice_pixelAt hdrawn ht' hdrawn' hpx hpy,
      spriteDrawn_twice_VF_eq_one_iff hdrawn ht' hdrawn'⟩

end Sys2Proof.Machine
end

/-! ### Keypad and timers: which keys are down, the lowest of them, and the wait that leaves the state as it was -/

section
namespace Sys2Proof.Machine

section
variable (s : State)

theorem State.setDt_frame (b : Byte) : unchangedBut [.dt] s (s.setDt b) :=
  unchangedBut_of_sameBut (by simp [sameBut_iff])

theorem State.setSt_frame (b : Byte) : unchangedBut [.st] s (s.setSt b) :=
  unchangedBut_of_sameBut (by simp [sameBut_iff])

/-- Of two skips under opposite conditions exactly one moves PC: the first where the condition holds
(44_keypad_timers.md R191, R192). -/
theorem State.skipIf_pc_of_true {c : Bool} (h : c = true) :
    (s.skipIf c).pc = s.pc + 2 ∧ (s.skipIf !c).pc = s.pc := by
  rw [h]
  exact ⟨rfl, rfl⟩

theorem State.skipIf_pc_of_false {c : Bool} (h : c = false) :
    (s.skipIf c).pc = s.pc ∧ (s.skipIf !c).pc = s.pc + 2 := by
  rw [h]
  exact ⟨rfl, rfl⟩

/-- Going back by 2 undoes the advance (40_cycle.md R92, 44_keypad_timers.md R194). -/
theorem State.advance_setPc_sub_two : s.advance.setPc (s.advance.pc - 2) = s := by
  rw [State.advance_pc_sub_two]
  rfl

end

section
variable {s : State}

/-- The scan for a key over the key latch itself (R194, R197). -/
theorem State.firstKeyDown_of_lowest {k : Fin 16} (hk : s.key[k] = true) (hlow : ∀ j : Fin 16, j < k → s.key[j] = false) :
    s.firstKeyDown = some k.val :=
  (s.firstKeyDown_eq_some_iff k).mpr ⟨k.isLt, (s.keyDown_of_lt k.isLt).trans hk,
    fun j hj => (s.keyDown_of_lt (hj.trans k.isLt)).trans (hlow ⟨j, hj.trans k.isLt⟩ hj)⟩

theorem State.keyDown_of_all_up (hup : ∀ j : Fin 16, s.key[j] = false) : ∀ k < 16, s.keyDown k = false :=
  fun k hk => (s.keyDown_of_lt hk).trans (hup ⟨k, hk⟩)

theorem State.firstKeyDown_of_all_up (hup : ∀ j : Fin 16, s.key[j] = false) : s.firstKeyDown = none :=
  s.firstKeyDown_eq_none_iff.mpr (State.keyDown_of_all_up hup)

/-- A Step that waits for a key changes nothing: the instruction undoes the advance (R194). -/
theorem step_ldVxK_of_all_up {x : RegIdx} (hrun : s.isRunning) (hpc : s.pc.toNat ≤ 4094)
    (hdec : decode s.fetchWord = some (.ldVxK x)) (hup : ∀ j : Fin 16, s.key[j] = false) : step s = .next s := by
  have hno : s.advance.firstKeyDown = none := State.firstKeyDown_of_all_up hup
  rw [step_of_decode hrun hpc hdec]
  calc exec (.ldVxK x) s.advance = .next (s.advance.setPc (s.advance.pc - 2)) := exec_ldVxK_of_no_key hno
    _ = .next s := by rw [State.advance_setPc_sub_two]

end

/-- Settles O42: the two are skips under opposite conditions, and V[X] names a key that is down, one that is up, or no
key. -/
theorem keySkips : Obligations.KeySkips := by
  refine fun x => ⟨decodeEncodeRoundTrip (.skp x) rfl, decodeEncodeRoundTrip (.sknp x) rfl, fun s =>
    ⟨_, _, rfl, rfl, s.skipIf_frame _, s.skipIf_frame _, fun h hdown => ?_, fun h hup => ?_, fun h => ?_⟩⟩
  · exact s.skipIf_pc_of_true ((s.keyDown_of_lt h).trans hdown)
  · exact s.skipIf_pc_of_false ((s.keyDown_of_lt h).trans hup)
  · exact s.skipIf_pc_of_false (s.keyDown_of_ge h)

/-- Settles O43, by whether the scan finds a key; an index below 16 is the same number as a byte. -/
theorem keyWaitTakesLowestKey : Obligations.KeyWaitTakesLowestKey := by
  refine fun x => ⟨decodeEncodeRoundTrip (.ldVxK x) rfl, fun s k hk hlow => ?_, fun s hup => ?_,
    fun s hrun hpc hdec hup => ?_⟩
  · refine ⟨_, exec_ldVxK_of_key (State.firstKeyDown_of_lowest hk hlow), ?_, s.setV_onlyRegs x _⟩
    rw [State.getV_setV_same, BitVec.toNat_ofNat]
    exact Nat.mod_eq_of_lt (by omega)
  · exact ⟨_, exec_ldVxK_of_no_key (State.firstKeyDown_of_all_up hup), rfl, s.setPc_frame _⟩
  · have hstep := step_ldVxK_of_all_up hrun hpc hdec hup
    have hwait := s.waitsForKey_iff.mpr ⟨⟨x, hdec⟩, State.keyDown_of_all_up hup⟩
    exact ⟨hstep, by rw [State.hostStep_of_running hstep hrun, if_pos hwait]⟩

/-- Settles O44: each is one write, of a register or of a timer. -/
theorem timerMoves : Obligations.TimerMoves := fun x =>
  ⟨decodeEncodeRoundTrip (.ldVxDt x) rfl, decodeEncodeRoundTrip (.ldDtVx x) rfl, decodeEncodeRoundTrip (.ldStVx x) rfl,
    fun s => ⟨⟨_, rfl, s.getV_setV_same x s.dt, s.setV_onlyRegs x s.dt⟩, ⟨_, rfl, rfl, s.setDt_frame _⟩,
      ⟨_, rfl, rfl, s.setSt_frame _⟩⟩⟩

end Sys2Proof.Machine
end

/-! ### Memory transfer: a run of bytes stored, a run of registers loaded, and the range check before either -/

section
namespace Sys2Proof.Machine

section
variable {s : State} {x : RegIdx}

/-- A range whose last byte `I + n` lies past memory faults before any effect (20_memory.md R54). -/
theorem withRange_faultTaken {n : Nat} (e : State) (hout : 4096 ≤ s.i.toNat + n) :
    ∃ t, withRange (n + 1) s e = .next t ∧ faultTaken .memOutOfBounds (max s.i.toNat 4096) s t := by
  rw [withRange_faults e ⟨n.succ_pos, hout⟩]
  exact raise_faultTaken s _ _

theorem exec_ldVxMem_loads (hfit : s.i.toNat + x.val < 4096) : exec (.ldVxMem x) s = .next (s.loadRegs x) :=
  withRange_fits (.inr hfit)

theorem State.storeBytes_frame (s : State) (a : Nat) (bs : List Byte) : unchangedBut [.mem] s (s.storeBytes a bs) :=
  unchangedBut_of_sameBut (by simp [sameBut_iff])

theorem State.loadRegs_frame (s : State) (x : RegIdx) : unchangedBut [.v] s (s.loadRegs x) :=
  unchangedBut_of_sameBut (by simp [sameBut_iff])

/-- Stored digits read back as numbers, hundreds first (45_memory_transfer.md R210). -/
theorem State.readByte_storeBytes_bcdDigits_toNat (hm : s.mem.wf) (a : Nat) (b : Byte) {k : Nat} (hk : k < 3) :
    ((s.storeBytes a (bcdDigits b)).readByte (a + k)).toNat = [b.toNat / 100, b.toNat / 10 % 10, b.toNat % 10][k] := by
  have hlen : k < (bcdDigits b).length := hk.trans_eq (length_bcdDigits b).symm
  rw [s.readByte_storeBytes_at hm a _ hlen]
  exact bcdDigits_getElem_toNat b hlen

/-- Each of V0..VX stands at its own index from I (R211). -/
theorem State.readByte_storeBytes_regsUpTo (hm : s.mem.wf) (a : Nat) {k : RegIdx} (hk : k ≤ x) :
    (s.storeBytes a (s.regsUpTo x)).readByte (a + k.val) = s.getV k := by
  have hlen : k.val < (s.regsUpTo x).length := by
    rw [State.length_regsUpTo]
    exact Nat.lt_succ_of_le hk
  rw [s.readByte_storeBytes_at hm a _ hlen, State.getElem_regsUpTo]

theorem State.getV_loadRegs_of_le {k : RegIdx} (hk : k ≤ x) :
    (s.loadRegs x).getV k = s.readByte (s.i.toNat + k.val) := by
  rw [State.getV_loadRegs, if_pos hk, State.effAddr]

theorem State.getV_loadRegs_of_gt {k : RegIdx} (hk : x < k) : (s.loadRegs x).getV k = s.getV k := by
  rw [State.getV_loadRegs, if_neg hk.not_ge]

end

/-- Settles O45, by whether the three bytes lie in memory: what is stored are the digits, and each fits its byte. -/
theorem bcdStoresDigits : Obligations.BcdStoresDigits := by
  refine fun x => ⟨decodeEncodeRoundTrip (.ldBVx x) rfl, fun s hm hfit => ?_, fun s hout => withRange_faultTaken _ hout⟩
  have hdigit (k : Nat) (hk : k < 3) := State.readByte_storeBytes_bcdDigits_toNat hm s.i.toNat (s.getV x) hk
  exact ⟨_, exec_ldBVx_stores hfit, hdigit 0 (by decide), hdigit 1 (by decide), hdigit 2 (by decide),
    fun a ha => s.readByte_storeBytes_other _ ha, s.storeBytes_frame _ _⟩

/-- Settles O46, by whether the bytes of V0..VX lie in memory. -/
theorem storeRegistersAtI : Obligations.StoreRegistersAtI := by
  refine fun x => ⟨decodeEncodeRoundTrip (.ldMemVx x) rfl, fun s hm hfit => ⟨_, exec_ldMemVx_stores hfit,
    fun k hk => State.readByte_storeBytes_regsUpTo hm _ hk, fun a ha => s.readByte_storeBytes_other _ ?_,
    s.storeBytes_frame _ _⟩, fun s hout => withRange_faultTaken _ hout⟩
  rwa [State.length_regsUpTo, ← Nat.add_assoc]

/-- Settles O47, by whether the bytes to load lie in memory. -/
theorem loadRegistersFromI : Obligations.LoadRegistersFromI := fun x =>
  ⟨decodeEncodeRoundTrip (.ldVxMem x) rfl, fun s hfit => ⟨_, exec_ldVxMem_loads hfit,
    fun _ hk => State.getV_loadRegs_of_le hk, fun _ hk => State.getV_loadRegs_of_gt hk, s.loadRegs_frame x⟩,
    fun _ hout => withRange_faultTaken _ hout⟩

/-- Settles O48: the load reads at each index from I the register that the store put there. -/
theorem storeThenLoadRestores : Obligations.StoreThenLoadRestores := by
  intro x s t t' hm hfit hstore hi hmem
  obtain rfl := Host.Outcome.next.inj ((exec_ldMemVx_stores hfit).symm.trans hstore)
  refine ⟨t'.loadRegs x, exec_ldVxMem_loads (by rwa [hi]), fun k hk => ?_, hi⟩
  calc (t'.loadRegs x).getV k
    _ = t'.readByte (s.i.toNat + k.val) := by rw [State.getV_loadRegs_of_le hk, hi]
    _ = (s.storeBytes s.i.toNat (s.regsUpTo x)).readByte (s.i.toNat + k.val) := hmem _
    _ = s.getV k := State.readByte_storeBytes_regsUpTo hm _ hk

end Sys2Proof.Machine
end

/-! ### Which faults a Step takes: exactly those of the fault table, by decode and by `ExecFaults` -/

section
namespace Sys2Proof.Machine

section
variable {i : Instr} {s t : State} {k : FaultKind} {n : Nat}

/-- An instruction that accesses no byte range has one that fits, so only the four that do can fault by it. -/
theorem exec_range_faults (h : ¬ s.rangeFits (accessLength i)) :
    exec i s = raise .memOutOfBounds (max s.i.toNat 4096) s := by
  have hout : 0 < accessLength i ∧ 4096 ≤ s.i.toNat + accessLength i - 1 := by
    unfold State.rangeFits at h; omega
  cases i with
  | drw _ _ _ | ldBVx _ | ldMemVx _ | ldVxMem _ => exact withRange_faults _ hout
  | _ => exact absurd (.inl rfl) h

/-- Where a fault of `ExecFaults` applies, the instruction takes that one. -/
theorem exec_of_execFaults (h : ExecFaults s i k n) : exec i s = raise k n s := by
  cases h with
  | underflow h0 => exact exec_ret_underflows h0
  | overflow h16 => exact exec_call_overflows h16
  | range hout => exact exec_range_faults hout

/-- An instruction run from RUNNING writes the status only by taking a fault of `ExecFaults`. -/
theorem execFaults_of_faulted (hrun : s.isRunning) (h : exec i s = .next t) {a : Word} (hst : t.status = .faulted k a n) :
    ExecFaults s i k n := by
  obtain ⟨k', n', hk, rfl⟩ | hf := exec_fault_or_sameBut h
  · cases hst
    exact hk
  · have hsame : t.status = s.status := hf .status (status_notMem_writes i)
    rw [hsame, hrun] at hst
    cases hst

/-- A step whose instruction faults records the PC before the step (40_cycle.md R96). -/
theorem step_of_execFaults (hrun : s.isRunning) (hpc : s.pc.toNat ≤ 4094) (hdec : decode s.fetchWord = some i)
    (h : ExecFaults s.advance i k n) : step s = .next { s with status := .faulted k s.pc n } := by
  rw [step_of_decode hrun hpc hdec, exec_of_execFaults h, raise_advance]

end

/-- Settles O14: a fault recorded by a step is the fetch's, the decoder's or one of `ExecFaults`, and each of these is
taken where it applies. -/
theorem stepFaultsExactlyWhen : Obligations.StepFaultsExactlyWhen := by
  intro s k n hrun
  constructor
  · rintro ⟨t, h, hst⟩
    obtain ⟨-, ⟨hpc, rfl⟩ | ⟨hpc, hdec, rfl⟩ | ⟨hpc, i, hdec, hex⟩⟩ := step_next_cases h
    · cases hst
      exact .inl ⟨hpc, rfl, rfl⟩
    · cases hst
      exact .inr (.inl ⟨hpc, hdec, rfl, rfl⟩)
    · cases execFaults_of_faulted (s := s.advance) hrun hex hst with
      | underflow h0 => exact .inr (.inr (.inl ⟨hpc, hdec, h0, rfl, rfl⟩))
      | overflow h16 => exact .inr (.inr (.inr (.inl ⟨hpc, ⟨_, hdec⟩, h16, rfl, rfl⟩)))
      | range hout => exact .inr (.inr (.inr (.inr ⟨hpc, ⟨i, hdec, hout⟩, rfl, rfl⟩)))
  · rintro (⟨hpc, rfl, rfl⟩ | ⟨hpc, hdec, rfl, rfl⟩ | ⟨hpc, hdec, h0, rfl, rfl⟩ | ⟨hpc, ⟨_, hdec⟩, h16, rfl, rfl⟩ |
      ⟨hpc, ⟨_, hdec, hout⟩, rfl, rfl⟩)
    · exact ⟨_, step_of_fetch_out hrun hpc, rfl⟩
    · exact ⟨_, step_of_unrecognized hrun hpc hdec, rfl⟩
    · exact ⟨_, step_of_execFaults hrun hpc hdec (.underflow h0), rfl⟩
    · exact ⟨_, step_of_execFaults hrun hpc hdec (.overflow h16), rfl⟩
    · exact ⟨_, step_of_execFaults hrun hpc hdec (.range hout), rfl⟩

end Sys2Proof.Machine
end

/-! ### Host operations: what Tick, SetKey and the reads do, and the invariant along any sequence of operations -/

section
namespace Sys2Proof.Machine

section
variable {s t : State}

/-! #### Sequences of operations -/

@[simp] theorem State.runOps_nil (s : State) : s.runOps [] = s := rfl

@[simp] theorem State.runOps_cons (s : State) (op : HostOp) (ops : List HostOp) :
    s.runOps (op :: ops) = (hostOp op s).2.runOps ops := rfl

/-! #### Tick and SetKey -/

theorem tickDown_toNat (b : Byte) : (tickDown b).toNat = b.toNat - 1 := by
  unfold tickDown
  split
  · next h0 => rw [h0]; rfl
  · next h0 => bv_omega

theorem State.hostTick_sameBut (s : State) : sameBut [.dt, .st] s s.hostTick := by
  simp [sameBut_iff]

/-- n Ticks take n from both timers, never below 0 (60_exceptions.md R242). -/
theorem State.runOps_ticks (n : Nat) (s : State) :
    (s.runOps (List.replicate n .tick)).dt.toNat = s.dt.toNat - n ∧
    (s.runOps (List.replicate n .tick)).st.toNat = s.st.toNat - n := by
  induction n generalizing s with
  | zero => exact ⟨rfl, rfl⟩
  | succ n ih =>
    obtain ⟨hdt, hst⟩ := ih s.hostTick
    rw [State.hostTick_dt, tickDown_toNat] at hdt
    rw [State.hostTick_st, tickDown_toNat] at hst
    rw [List.replicate_succ, State.runOps_cons]
    exact ⟨hdt.trans (by omega), hst.trans (by omega)⟩

theorem State.hostSetKey_of_key {index : Int} (h0 : 0 ≤ index) (h15 : index ≤ 15) (pressed : Bool) :
    s.hostSetKey index pressed = { s with key := s.key.setIfInBounds index.toNat pressed } := if_pos ⟨h0, h15⟩

theorem State.hostSetKey_of_other {index : Int} (h : index < 0 ∨ 15 < index) (pressed : Bool) :
    s.hostSetKey index pressed = s := if_neg (by omega)

theorem State.hostSetKey_key {index : Int} (h0 : 0 ≤ index) (h15 : index ≤ 15) (pressed : Bool) (k : Fin 16) :
    (s.hostSetKey index pressed).key[k] = if (k.val : Int) = index then pressed else s.key[k] := by
  have hk : index.toNat = k.val ↔ (k.val : Int) = index := by omega
  simp only [State.hostSetKey_of_key h0 h15, Fin.getElem_fin, Vector.getElem_setIfInBounds, hk]

theorem State.hostSetKey_sameBut (index : Int) (pressed : Bool) : sameBut [.key] s (s.hostSetKey index pressed) := by
  unfold State.hostSetKey
  split <;> simp [sameBut_iff]

/-! #### The invariant -/

/-- The invariant speaks of memory, the stack, SP, PC and the status alone. -/
theorem State.Inv.of_sameBut (hs : s.Inv) (hf : sameBut [.v, .i, .dt, .st, .key, .pix, .draws] s t) : t.Inv := by
  have hmem : t.mem = s.mem := hf .mem (by decide)
  have hpc : t.pc = s.pc := hf .pc (by decide)
  have hstack : t.stack = s.stack := hf .stack (by decide)
  have hsp : t.sp = s.sp := hf .sp (by decide)
  have hstatus : t.status = s.status := hf .status (by decide)
  exact {
    mem_wf := hmem ▸ hs.mem_wf
    sp_le := hsp ▸ hs.sp_le
    stack_le := hstack ▸ hs.stack_le
    status_ok := by rw [State.statusOk, hstatus, hpc]; exact hs.status_ok }

/-- Reset keeps nothing of the state before it but the draw counter. -/
theorem State.hostReset_inv (s : State) (start : Word) : (s.hostReset start).Inv :=
  (State.resetAt_inv start).of_sameBut (by simp [sameBut_iff, State.hostReset])

/-- A Load that succeeds has checked that its bytes lie inside memory (70_reset_and_hazards.md R274). -/
theorem State.hostLoad_inv (hs : s.Inv) (base : Nat) (bytes : List Byte) : (s.hostLoad base bytes).2.Inv := by
  obtain hfit | hbig := le_or_gt (base + bytes.length) 4096
  · rw [State.hostLoad_stores hfit]
    exact { hs with mem_wf := Memory.writeBytes_wf hs.mem_wf bytes hfit }
  · rw [State.hostLoad, if_pos hbig]
    exact hs

/-- From RUNNING a Step leaves the next state of `step`; in FAULTED it leaves the state as it is. -/
theorem State.hostStep_inv (hs : s.Inv) : s.hostStep.2.Inv := by
  cases hst : s.status with
  | running =>
    obtain ⟨t, h⟩ := step_isNext hst
    rw [State.hostStep_snd h]
    exact stepKeepsTheInvariant s t hs h
  | faulted k a n =>
    rw [State.hostStep_of_faulted hst]
    exact hs

theorem hostOp_inv (hs : s.Inv) (op : HostOp) : (hostOp op s).2.Inv := by
  cases op with
  | reset start => exact s.hostReset_inv start
  | load base bytes => exact State.hostLoad_inv hs base bytes
  | step => exact State.hostStep_inv hs
  | tick => exact hs.of_sameBut (sameBut_mono s.hostTick_sameBut (by decide))
  | setKey index pressed => exact hs.of_sameBut (sameBut_mono (State.hostSetKey_sameBut index pressed) (by decide))
  | readDisplay | readSound | readState => exact hs

theorem State.runOps_inv (hs : s.Inv) (ops : List HostOp) : (s.runOps ops).Inv := by
  induction ops generalizing s with
  | nil => exact hs
  | cons op ops ih => exact ih (hostOp_inv hs op)

/-! #### The tone -/

theorem State.toneOn_iff (s : State) : s.toneOn = true ↔ s.st.toNat ≠ 0 := by
  rw [State.toneOn, bne_iff_ne, ne_eq, ne_eq, ← BitVec.toNat_inj]
  rfl

end

/-- Settles O18: each operation keeps the invariant, Load by its bounds check and Step by O17, and Reset starts with it. -/
theorem hostOperationsKeepTheInvariant : Obligations.HostOperationsKeepTheInvariant := by
  refine ⟨fun s op hs => hostOp_inv hs op, ?_⟩
  rintro _ ⟨start, ops, rfl⟩
  exact State.runOps_inv (State.resetAt_inv start) ops

/-- Settles O50, by induction on the number of Ticks. -/
theorem ticksCountDown : Obligations.TicksCountDown := fun s n =>
  ⟨⟨tickDown_toNat s.dt, tickDown_toNat s.st, unchangedBut_of_sameBut s.hostTick_sameBut, rfl⟩, s.runOps_ticks n⟩

/-- Settles O51, by whether the index is that of a key. -/
theorem setKeyWritesOneKey : Obligations.SetKeyWritesOneKey := fun _ index pressed =>
  ⟨fun h0 h15 => State.hostSetKey_key h0 h15 pressed, unchangedBut_of_sameBut (State.hostSetKey_sameBut index pressed),
    fun h => State.hostSetKey_of_other h pressed⟩

/-- Settles O54: each read answers a component of the state beside the state itself. -/
theorem readsChangeNothing : Obligations.ReadsChangeNothing := fun s => ⟨rfl, rfl, rfl, s.toneOn_iff⟩

end Sys2Proof.Machine
end

/-! ### The end of a run, Load and Reset -/

section
namespace Sys2Proof.Machine

/-! #### The end of a run (70_reset_and_hazards.md R278) -/

/-- An address inside memory is its own low 12 bits, zero-extended (30_encoding.md R72). -/
theorem zextAddr_setWidth {a : Word} (h : a.toNat < 4096) : zextAddr (a.setWidth 12) = a := by
  refine BitVec.eq_of_toNat_eq ?_
  rw [zextAddr_toNat, BitVec.toNat_setWidth, Nat.mod_eq_of_lt h]

/-- The word of JP, as R278 writes it. -/
theorem encode_jp_eq_or (nnn : Addr) : encode (.jp nnn) = 0x1000#16 ||| zextAddr nnn := rfl

section
variable {s : State}

/-- At the end of a run the next instruction is a JP to its own address. -/
theorem State.runEnded.exists_jp (h : s.runEnded) :
    ∃ nnn, decode s.fetchWord = some (.jp nnn) ∧ zextAddr nnn = s.pc := by
  obtain ⟨-, hpc, hword⟩ := h
  have hself : zextAddr (s.pc.setWidth 12) = s.pc := zextAddr_setWidth (by omega)
  have hjp : s.fetchWord = encode (.jp (s.pc.setWidth 12)) := by rw [hword, encode_jp_eq_or, hself]
  exact ⟨_, hjp ▸ decodeEncodeRoundTrip (.jp (s.pc.setWidth 12)) rfl, hself⟩

/-- Jumping back to the instruction's own address undoes the advance (40_cycle.md R92). -/
theorem State.advance_setPc_pc : s.advance.setPc s.pc = s := rfl

/-! #### Load (R274, R275) -/

theorem State.hostLoad_refuses {base : Nat} {bytes : List Byte} (hbig : 4096 < base + bytes.length) :
    s.hostLoad base bytes = (.loadTooLarge base bytes.length, s) := if_pos hbig

end

/-! #### Reset (R270, R271) -/

section
variable (s : State) (start : Word)

/-- The record of a Reset is that of a machine just reset at `start`: nothing of `s` is in it (R271). -/
theorem State.hostReset_record : (s.hostReset start).record = (State.resetAt start).record := rfl

/-- Reset leaves FONT and zeros in memory, in which nothing is listed (R270). -/
theorem State.hostReset_readByte (a : Nat) : (s.hostReset start).readByte a = Memory.unlisted a := rfl

theorem State.hostReset_getV (r : RegIdx) : (s.hostReset start).getV r = 0x00#8 :=
  Vector.getElem_replicate r.isLt

theorem State.hostReset_stack (k : Fin 16) : (s.hostReset start).stack[k] = 0x0000#16 :=
  Vector.getElem_replicate k.isLt

theorem State.hostReset_key (k : Fin 16) : (s.hostReset start).key[k] = false :=
  Vector.getElem_replicate k.isLt

theorem State.hostReset_pixelAt (x y : Nat) : pixelAt (s.hostReset start).pix x y = false :=
  pixelAt_blankPixels x y

end

/-- Settles O30: the instruction fetched is a JP to its own address, which undoes the advance. -/
theorem selfJumpLeavesTheState : Obligations.SelfJumpLeavesTheState := by
  intro s hend
  obtain ⟨nnn, hdec, hself⟩ := hend.exists_jp
  obtain ⟨hrun, hpc, -⟩ := hend
  calc step s = exec (.jp nnn) s.advance := step_of_decode hrun (by omega) hdec
    _ = .next (s.advance.setPc (zextAddr nnn)) := rfl
    _ = .next s := by rw [hself, State.advance_setPc_pc]

/-- Settles O52, by whether the bytes end inside memory: if so Load stores them as one run. -/
theorem loadCopiesOrRefuses : Obligations.LoadCopiesOrRefuses := by
  refine fun s base bytes => ⟨fun hfit => ?_, State.hostLoad_refuses⟩
  rw [hostOp, State.hostLoad_stores hfit]
  exact ⟨rfl, fun hm k hk => s.readByte_storeBytes_at hm base bytes hk,
    fun a ha => s.readByte_storeBytes_other bytes ha, s.storeBytes_frame base bytes⟩

/-- Settles O53: what is read after Reset is what Reset wrote, component by component, and the record is that of
`State.resetAt start` from every state. -/
theorem resetLeavesTheResetState : Obligations.ResetLeavesTheResetState := fun s start =>
  ⟨s.hostReset start, rfl,
    fun a ha => (s.hostReset_readByte start a).trans (Memory.unlisted_of_lt ha),
    fun a ha _ => (s.hostReset_readByte start a).trans (Memory.unlisted_of_ge ha),
    s.hostReset_getV start, rfl, s.hostReset_stack start, rfl, rfl, rfl, s.hostReset_key start,
    fun x _ y _ => s.hostReset_pixelAt start x y, rfl, State.hostReset_isRunning start,
    fun s' => (s'.hostReset_record start).trans (s.hostReset_record start).symm⟩

end Sys2Proof.Machine
end
